-- ==== Sys2Proof/Word.lean ====
section
/-! DEFINITION. The widths of the block's values (00_scope.md R8; 10_state.md R21; 30_encoding.md R91). -/

namespace Sys2Proof

/-- A byte of ring storage, host memory or scratch, and an `IMM8` field. -/
abbrev Byte := BitVec 8

/-- A 32-bit cursor, length or result value. -/
abbrev Word := BitVec 32

/-- A 64-bit `ADDR` operand: a host address, or a ring offset of WINWR and WINRD. -/
abbrev Addr := BitVec 64

/-- A 128-bit command descriptor `DESC128` (30_encoding.md R90). -/
abbrev Desc := BitVec 128

end Sys2Proof
end

