-- ==== Sys2Proof/Syntax.lean ====
section
/-! DEFINITION. The seventeen commands of interface RCI-1, one constructor per row of spec/opcode_table.json. -/

namespace Sys2Proof

/-- A command with its operands, as 30_encoding.md R92 and R97 give them. The comments name the opcode and the rule. -/
inductive Instr where
  /-- 0x01 RESIZE, R121: requested capacity, silence byte. -/
  | resize (len : Word) (silence : Byte)
  /-- 0x02 CLEAR, R124. -/
  | clear
  /-- 0x03 FILLSIL, R125. -/
  | fillsil
  /-- 0x04 SETHINT, R193: the hint code, 0 none, 1 LsbAligned, 2 MsbAligned. -/
  | sethint (hint : Byte)
  /-- 0x08 AVAIL, R122. -/
  | avail
  /-- 0x09 FREE, R123. -/
  | free
  /-- 0x10 PUSH, R172: source host address, bytes offered. -/
  | push (addr : Addr) (len : Word)
  /-- 0x11 PUSH24, R199: source host address, input bytes. -/
  | push24 (addr : Addr) (len : Word)
  /-- 0x12 PUSH16TO32, R201: source host address, input bytes. -/
  | push16to32 (addr : Addr) (len : Word)
  /-- 0x13 PUSHDSD, R204: source host address, input bytes, channel count, bit reversal, byte swap. -/
  | pushdsd (addr : Addr) (len : Word) (channels : Byte) (br bs : Bool)
  /-- 0x14 WREGION, R142: bytes needed. -/
  | wregion (len : Word)
  /-- 0x15 WINWR, R143: ring offset, data byte. -/
  | winwr (off : Addr) (byte : Byte)
  /-- 0x16 COMMITW, R144: bytes to commit. -/
  | commitw (n : Word)
  /-- 0x20 POP, R173: destination host address, bytes wanted. -/
  | pop (addr : Addr) (len : Word)
  /-- 0x21 RREGION, R145: bytes needed. -/
  | rregion (len : Word)
  /-- 0x22 WINRD, R146: ring offset. -/
  | winrd (off : Addr)
  /-- 0x23 ADVANCER, R147: bytes to release. -/
  | advancer (n : Word)
  deriving DecidableEq, Repr

end Sys2Proof
end

