-- ==== Sys2Proof/WellFormed.lean ====
section
/-! DEFINITION. Which commands some descriptor encodes: the one decode-time value check (30_encoding.md R96). -/

namespace Sys2Proof

/-- Whether a legal descriptor encodes the command: a SETHINT hint is at most 2, and "no other field has a
decode-time value restriction" (30_encoding.md R96). -/
def Instr.wellFormed (i : Instr) : Bool :=
  match i with
  | .resize _ _ => true
  | .clear => true
  | .fillsil => true
  | .sethint hint => decide (hint.toNat ≤ 2)
  | .avail => true
  | .free => true
  | .push _ _ => true
  | .push24 _ _ => true
  | .push16to32 _ _ => true
  | .pushdsd _ _ _ _ _ => true
  | .wregion _ => true
  | .winwr _ _ => true
  | .commitw _ => true
  | .pop _ _ => true
  | .rregion _ => true
  | .winrd _ => true
  | .advancer _ => true

end Sys2Proof
end

