-- ==== Sys2Proof/Decode.lean ====
section
/-! DEFINITION. The descriptor format DESC128: its fields, the decoder, the encoder and the byte serialization
(30_encoding.md R90 to R100). -/

namespace Sys2Proof

/-- Why bits are no legal descriptor. The first four are the block's ILLEGAL_COMMAND (R93, R94, R96); the last can
only happen to bytes outside the block, before a descriptor is complete. -/
inductive DecodeError where
  /-- `OPC` is not in the table of R92 (R93). -/
  | unassignedOpcode
  /-- `RSV` is not zero (R94). -/
  | reservedField
  /-- A field that the opcode does not use is not zero (R94). -/
  | unusedField
  /-- SETHINT with `IMM8 > 2` (R96). -/
  | badHint
  /-- Fewer than the 16 bytes of a descriptor (R100). -/
  | tooShort
  deriving DecidableEq, Repr

/-! ### Fields (R91) -/

/-- `OPC`, bits 7 to 0. -/
def descOpc (d : Desc) : Byte := d.extractLsb' 0 8

/-- `IMM8`, bits 15 to 8. -/
def descImm (d : Desc) : Byte := d.extractLsb' 8 8

/-- `BR`, bit 16. -/
def descBr (d : Desc) : Bool := d.getLsbD 16

/-- `BS`, bit 17. -/
def descBs (d : Desc) : Bool := d.getLsbD 17

/-- `RSV`, bits 31 to 18. -/
def descRsv (d : Desc) : BitVec 14 := d.extractLsb' 18 14

/-- `LEN`, bits 63 to 32. -/
def descLen (d : Desc) : Word := d.extractLsb' 32 32

/-- `ADDR`, bits 127 to 64. -/
def descAddr (d : Desc) : Addr := d.extractLsb' 64 64

/-- The descriptor with the given fields and `RSV = 0`, most significant field first (R91). -/
def descriptor (opc imm : Byte) (br bs : Bool) (len : Word) (addr : Addr) : Desc :=
  addr ++ len ++ 0#14 ++ BitVec.ofBool bs ++ BitVec.ofBool br ++ imm ++ opc

/-! ### Decoding -/

/-- The command that the opcode names, with the operands of the fields it uses (R92, R97); none for an unassigned
opcode (R93). The checks of the other fields are `decode`'s. -/
def decodeOpcode (d : Desc) : Option Instr :=
  match (descOpc d).toNat with
  | 0x01 => some (.resize (descLen d) (descImm d))
  | 0x02 => some .clear
  | 0x03 => some .fillsil
  | 0x04 => some (.sethint (descImm d))
  | 0x08 => some .avail
  | 0x09 => some .free
  | 0x10 => some (.push (descAddr d) (descLen d))
  | 0x11 => some (.push24 (descAddr d) (descLen d))
  | 0x12 => some (.push16to32 (descAddr d) (descLen d))
  | 0x13 => some (.pushdsd (descAddr d) (descLen d) (descImm d) (descBr d) (descBs d))
  | 0x14 => some (.wregion (descLen d))
  | 0x15 => some (.winwr (descAddr d) (descImm d))
  | 0x16 => some (.commitw (descLen d))
  | 0x20 => some (.pop (descAddr d) (descLen d))
  | 0x21 => some (.rregion (descLen d))
  | 0x22 => some (.winrd (descAddr d))
  | 0x23 => some (.advancer (descLen d))
  | _ => none

/-- Whether the command uses `IMM8` (R92). -/
def usesImm (i : Instr) : Bool :=
  match i with
  | .resize _ _ | .sethint _ | .pushdsd _ _ _ _ _ | .winwr _ _ => true
  | .clear | .fillsil | .avail | .free | .push _ _ | .push24 _ _ | .push16to32 _ _ | .wregion _ | .commitw _
  | .pop _ _ | .rregion _ | .winrd _ | .advancer _ => false

/-- Whether the command uses `BR` and `BS` (R92). -/
def usesSwaps (i : Instr) : Bool :=
  match i with
  | .pushdsd _ _ _ _ _ => true
  | .resize _ _ | .sethint _ | .winwr _ _ | .clear | .fillsil | .avail | .free | .push _ _ | .push24 _ _
  | .push16to32 _ _ | .wregion _ | .commitw _ | .pop _ _ | .rregion _ | .winrd _ | .advancer _ => false

/-- Whether the command uses `LEN` (R92). -/
def usesLen (i : Instr) : Bool :=
  match i with
  | .resize _ _ | .push _ _ | .push24 _ _ | .push16to32 _ _ | .pushdsd _ _ _ _ _ | .wregion _ | .commitw _
  | .pop _ _ | .rregion _ | .advancer _ => true
  | .clear | .fillsil | .sethint _ | .avail | .free | .winwr _ _ | .winrd _ => false

/-- Whether the command uses `ADDR` (R92). -/
def usesAddr (i : Instr) : Bool :=
  match i with
  | .push _ _ | .push24 _ _ | .push16to32 _ _ | .pushdsd _ _ _ _ _ | .winwr _ _ | .pop _ _ | .winrd _ => true
  | .resize _ _ | .clear | .fillsil | .sethint _ | .avail | .free | .wregion _ | .commitw _ | .rregion _
  | .advancer _ => false

/-- Whether every field that the command does not use is zero (R94). -/
def unusedZero (i : Instr) (d : Desc) : Bool :=
  (usesImm i || descImm d == 0#8) && (usesSwaps i || (!descBr d && !descBs d)) &&
    (usesLen i || descLen d == 0#32) && (usesAddr i || descAddr d == 0#64)

/-- The command a descriptor encodes, or why it is illegal, checked in the order of 60_exceptions.md R234 item 1:
opcode (R93), reserved and unused fields (R94), value (R96). -/
def decode (d : Desc) : Except DecodeError Instr :=
  match decodeOpcode d with
  | none => .error .unassignedOpcode
  | some i =>
    if descRsv d ≠ 0#14 then .error .reservedField
    else if unusedZero i d = false then .error .unusedField
    else if i.wellFormed = false then .error .badHint
    else .ok i

/-! ### Encoding -/

/-- The opcode of a command (R92). -/
def opcodeOf (i : Instr) : Byte :=
  match i with
  | .resize _ _ => 0x01#8
  | .clear => 0x02#8
  | .fillsil => 0x03#8
  | .sethint _ => 0x04#8
  | .avail => 0x08#8
  | .free => 0x09#8
  | .push _ _ => 0x10#8
  | .push24 _ _ => 0x11#8
  | .push16to32 _ _ => 0x12#8
  | .pushdsd _ _ _ _ _ => 0x13#8
  | .wregion _ => 0x14#8
  | .winwr _ _ => 0x15#8
  | .commitw _ => 0x16#8
  | .pop _ _ => 0x20#8
  | .rregion _ => 0x21#8
  | .winrd _ => 0x22#8
  | .advancer _ => 0x23#8

/-- The descriptor of a command: its opcode and the fields it uses, "a field the syntax does not name is zero"
(R92, R101). -/
def encode (i : Instr) : Desc :=
  match i with
  | .resize len silence => descriptor (opcodeOf i) silence false false len 0#64
  | .clear => descriptor (opcodeOf i) 0#8 false false 0#32 0#64
  | .fillsil => descriptor (opcodeOf i) 0#8 false false 0#32 0#64
  | .sethint hint => descriptor (opcodeOf i) hint false false 0#32 0#64
  | .avail => descriptor (opcodeOf i) 0#8 false false 0#32 0#64
  | .free => descriptor (opcodeOf i) 0#8 false false 0#32 0#64
  | .push addr len => descriptor (opcodeOf i) 0#8 false false len addr
  | .push24 addr len => descriptor (opcodeOf i) 0#8 false false len addr
  | .push16to32 addr len => descriptor (opcodeOf i) 0#8 false false len addr
  | .pushdsd addr len channels br bs => descriptor (opcodeOf i) channels br bs len addr
  | .wregion len => descriptor (opcodeOf i) 0#8 false false len 0#64
  | .winwr off byte => descriptor (opcodeOf i) byte false false 0#32 off
  | .commitw n => descriptor (opcodeOf i) 0#8 false false n 0#64
  | .pop addr len => descriptor (opcodeOf i) 0#8 false false len addr
  | .rregion len => descriptor (opcodeOf i) 0#8 false false len 0#64
  | .winrd off => descriptor (opcodeOf i) 0#8 false false 0#32 off
  | .advancer n => descriptor (opcodeOf i) 0#8 false false n 0#64

/-! ### Bytes (R100) -/

/-- The 16 bytes of a descriptor, byte `j` being its bits `8j+7` to `8j`. -/
def descBytes (d : Desc) : List Byte := (List.range 16).map fun j => d.extractLsb' (8 * j) 8

/-- The descriptor that bytes spell, the first byte least significant; bytes beyond the sixteenth fall away. -/
def descOfBytes (bs : List Byte) : Desc := (bs.take 16).foldr (fun b d => (d <<< 8) ||| b.setWidth 128) 0#128

/-- The command that the first 16 bytes encode, with the bytes after them: every descriptor is 128 bits (R99). -/
def decodeBytes (bs : List Byte) : Except DecodeError (Instr × List Byte) :=
  if bs.length < 16 then .error .tooShort
  else match decode (descOfBytes bs) with
    | .error e => .error e
    | .ok i => .ok (i, bs.drop 16)

/-- The 16 bytes of the descriptor whose bits are the low `nbits` bits of `w`, every higher bit 0. -/
def tableBytes (nbits w : Nat) : List Byte := descBytes (BitVec.ofNat 128 (w % 2 ^ nbits))

/-- What the decoder reads from a row of spec/opcode_table.json: its bits laid out as the 16 little-endian bytes of
R100, those bytes decoded. -/
def decodeTableWord (nbits w : Nat) : Option Instr :=
  match decodeBytes (tableBytes nbits w) with
  | .ok (i, _) => some i
  | .error _ => none

end Sys2Proof
end

