-- ==== Sys2Proof/Config.lean ====
section
/-! DEFINITION. The implementation parameters of 00_scope.md R6 that the spec leaves OPEN, as plain data. -/

namespace Sys2Proof

/-- The OPEN parameters of one implementation (00_scope.md R6). No step changes them and every statement about the
machine quantifies over them. DESIGN CHOICE (log entries 1 and 2): each is written so that only the values R6 allows
can be written down. -/
structure Config where
  /-- `CAP_MAX` is `2 ^ capMaxLog`: a power of two with `1 <= CAP_MAX <= 2^31`. -/
  capMaxLog : Fin 32
  /-- The last index of the scratch buffer: `SCRATCH_BYTES` is `scratchLast + 1`, at least 1. -/
  scratchLast : Nat
  /-- `DEFER_THRESHOLD`, with `0 <= DEFER_THRESHOLD < 2^31`. -/
  deferThreshold : Fin 2147483648
  /-- Where `HostOK` is false: ranges of host addresses, each a base and a size. -/
  hostHoles : List (Nat × Nat)
  deriving DecidableEq, Repr

/-- The values that 95_test_vectors.md takes unless a vector says otherwise: `CAP_MAX = 2^31`,
`SCRATCH_BYTES = 4096`, `DEFER_THRESHOLD = 48000`, `HostOK` true everywhere. DESIGN CHOICE (log entry 1): the values
of the configuration that `State.reset` carries. -/
def Config.vectors : Config :=
  { capMaxLog := 31, scratchLast := 4095, deferThreshold := 48000, hostHoles := [] }

end Sys2Proof
end

