-- ==== Sys2Proof/Machine/State.lean ====
section
/-! DEFINITION. The architectural state of 10_state.md R21 as plain data, host memory, the agents' offers and the
schedule, and the state after reset (R48). -/

namespace Sys2Proof.Machine

/-- The three ports (10_state.md R20). -/
inductive Port where
  /-- PRODUCER. -/
  | P
  /-- CONSUMER. -/
  | C
  /-- CONTROL. -/
  | K
  deriving DecidableEq, Repr

/-- Where the 24 significant bits of a container lie (R30). -/
inductive SampleSide where
  /-- LsbAligned, code 1: bytes 0 to 2. -/
  | lsb
  /-- MsbAligned, code 2: bytes 1 to 3. -/
  | msb
  deriving DecidableEq, Repr

/-- The values of `MODE` (R30): exactly the four codes of its 2 bits. -/
inductive AlignMode where
  /-- Unknown, code 0. -/
  | unknown
  /-- LsbAligned, code 1. -/
  | lsb
  /-- MsbAligned, code 2. -/
  | msb
  /-- Deferred, code 3. -/
  | deferred
  deriving DecidableEq, Repr

/-- The causes of a command fault (60_exceptions.md R233). A command that raises one takes a NEXT state, in which the
fault record holds its code (R231). -/
inductive FaultCode where
  /-- 0x01: unassigned opcode, non-zero reserved or unused field, SETHINT hint above 2. -/
  | illegalCommand
  /-- 0x02: opcode not permitted on the issuing port. -/
  | portViolation
  /-- 0x03: `CFG = 0`. -/
  | notConfigured
  /-- 0x04: a K reconfiguration while P or C has a command in flight. -/
  | quiescenceViolation
  /-- 0x05: RESIZE of 0 bytes or beyond `CAP_MAX`. -/
  | badCapacity
  /-- 0x06: PUSHDSD with no channel or blocks of unequal length. -/
  | dsdGeometry
  /-- 0x07: WINWR or WINRD outside the grant. -/
  | regionViolation
  /-- 0x08: COMMITW of more than the grant. -/
  | commitOverrun
  /-- 0x09: ADVANCER of more than the grant. -/
  | advanceOverrun
  /-- 0x0A: a host byte that may not be accessed. -/
  | hostAccessFault
  deriving DecidableEq, Repr

/-- What the schedule can say comes next (R45, 70_reset_and_hazards.md R270, 10_state.md R41). -/
inductive Turn where
  /-- The next step of a port: its COMPLETE if a command is in flight, else its ISSUE (P, C) or its step (K). -/
  | port (p : Port)
  /-- A host agent stores one byte in host memory, which the host agents own (R41). -/
  | hostStore (addr : Addr) (byte : Byte)
  /-- The platform resets the block (R270). -/
  | reset
  deriving DecidableEq, Repr

/-- Bytes by address, in one canonical form (`Memory.wf`): addresses strictly rising, no entry equal to what an
unlisted address reads as. -/
abbrev Memory := List Host.Cell

/-- The state of the block and of what surrounds it. The comments name the elements of 10_state.md R21. -/
structure State where
  /-- The model's own: the OPEN parameters of 00_scope.md R6; no step writes it (log entry 1). -/
  config : Config
  /-- S1 `CFG`. -/
  cfg : Bool
  /-- S2 `CAP`. -/
  cap : Word
  /-- S3 `WR`. -/
  wr : Word
  /-- S4 `RD`. -/
  rd : Word
  /-- S5 `SILENCE`. -/
  silence : Byte
  /-- S6 `RING`: an unlisted offset reads as `SILENCE`, the value RESIZE and FILLSIL store everywhere (log entry 9). -/
  ring : Memory
  /-- S7 `MODE`. -/
  mode : AlignMode
  /-- S8 `HINT`: none is code 0; the code 3 is never held (R31). -/
  hint : Option SampleSide
  /-- S9 `CONF`. -/
  conf : Bool
  /-- S10 `DEFCNT`. -/
  defcnt : Word
  /-- S11 `RVAL.P`. -/
  rvalP : Word
  /-- S11 `RVAL.C`. -/
  rvalC : Word
  /-- S11 `RVAL.K`. -/
  rvalK : Word
  /-- S12 `ROK.P`. -/
  rokP : Bool
  /-- S12 `ROK.C`. -/
  rokC : Bool
  /-- S12 `ROK.K`. -/
  rokK : Bool
  /-- S13 `BUSY.P`. -/
  busyP : Bool
  /-- S13 `BUSY.C`. -/
  busyC : Bool
  /-- S13 `LATCH.P`. -/
  latchP : Desc
  /-- S13 `LATCH.C`. -/
  latchC : Desc
  /-- S14 `SNAP.P`: `RD` as of P's last ISSUE. -/
  snapP : Word
  /-- S14 `SNAP.C`: `WR` as of C's last ISSUE. -/
  snapC : Word
  /-- S15 `WGB`. -/
  wgb : Word
  /-- S15 `WGL`. -/
  wgl : Word
  /-- S16 `RGB`. -/
  rgb : Word
  /-- S16 `RGL`. -/
  rgl : Word
  /-- S17 `SCRATCH`: an unlisted index reads 0 (log entry 7). -/
  scratch : Memory
  /-- S18 `FAULT`. -/
  fault : Bool
  /-- S18 `FCODE`. -/
  fcode : Byte
  /-- S18 `FPORT`. -/
  fport : BitVec 2
  /-- S18 `FDESC`. -/
  fdesc : Desc
  /-- Host memory `HMEM` (R41), outside the block: an unlisted address reads 0x00 (log entry 8). -/
  hmem : Memory
  /-- The model's own: the descriptors the agent of P will offer, oldest first (log entry 3). -/
  offersP : List Desc
  /-- The model's own: the descriptors the agent of C will offer, oldest first (log entry 3). -/
  offersC : List Desc
  /-- The model's own: the descriptors the agent of K will offer, oldest first (log entry 3). -/
  offersK : List Desc
  /-- The model's own: which step is taken next (log entry 3). -/
  turns : List Turn
  /-- The model's own: the port whose step is being taken; `step` writes it before a meaning runs (log entry 5). -/
  active : Port
  deriving DecidableEq, Repr

/-- What a command's pseudocode answers when no check fails: the state after its effects, and the `(val, ok)` of its
`return` (00_scope.md R10). -/
structure Reply where
  /-- The state after the command's effects. -/
  state : State
  /-- The result value. -/
  val : Word
  /-- The result flag. -/
  ok : Bool

/-- Why a step stops without a next state. No instruction raises it. -/
inductive Fault where
  /-- Raised by `step`, never by a meaning: a turn of a port, or no turn at all, while `FAULT = 1`. The spec enables
  no step of any port then (10_state.md R50, 60_exceptions.md R230). Safe: nothing follows. -/
  | halted
  deriving DecidableEq, Repr

/-- Why a step is given no meaning. -/
inductive Refusal where
  /-- Raised by no arm of this model: every command has its meaning. Safe. -/
  | notModelled (mnemonic : String)
  /-- Raised by a `hostStore` turn to a byte of a buffer that a command in flight will read or write at COMPLETE: a
  run "outside the model" by 70_reset_and_hazards.md R277 and 20_memory.md R78. Safe: nothing is claimed of it. -/
  | hostBufferInUse
  deriving DecidableEq, Repr

/-- The state after reset (10_state.md R48) of a block with the given parameters, its agents offering nothing, host
memory with nothing listed. `cap`, `silence` and `scratch` are unspecified and unobservable while `CFG = 0`: DESIGN
CHOICE 0 (log entry 7). -/
def State.resetWith (c : Config) : State :=
  { config := c
    cfg := false
    cap := 0#32
    wr := 0#32
    rd := 0#32
    silence := 0#8
    ring := []
    mode := .unknown
    hint := none
    conf := false
    defcnt := 0#32
    rvalP := 0#32
    rvalC := 0#32
    rvalK := 0#32
    rokP := false
    rokC := false
    rokK := false
    busyP := false
    busyC := false
    latchP := 0#128
    latchC := 0#128
    snapP := 0#32
    snapC := 0#32
    wgb := 0#32
    wgl := 0#32
    rgb := 0#32
    rgl := 0#32
    scratch := []
    fault := false
    fcode := 0#8
    fport := 0#2
    fdesc := 0#128
    hmem := []
    offersP := []
    offersC := []
    offersK := []
    turns := []
    active := .K }

/-- The machine right after reset, with the parameters of 95_test_vectors.md (log entry 1). -/
def State.reset : State := State.resetWith Config.vectors

end Sys2Proof.Machine
end

