-- ==== Sys2Proof/Machine/Ops.lean ====
section
/-! DEFINITION. The named operations every command uses: byte stores, the cursor functions, ring copies, grants,
raising a fault, returning a result, the steps of a port up to a command's meaning, and reset. -/

namespace Sys2Proof.Machine

/-! ### Byte stores (20_memory.md R60) -/

/-- The byte at address `a`; an unlisted address reads `fill`. -/
def Memory.read (fill : Byte) (a : Nat) (m : Memory) : Byte :=
  match m with
  | [] => fill
  | (x, b) :: rest => if a = x then b else Memory.read fill a rest

/-- Store `b` at address `a`, keeping the canonical form: the value an unlisted address reads removes the entry. -/
def Memory.write (fill : Byte) (a : Nat) (b : Byte) (m : Memory) : Memory :=
  match m with
  | [] => if b = fill then [] else [(a, b)]
  | (x, c) :: rest =>
    if a < x then (if b = fill then (x, c) :: rest else (a, b) :: (x, c) :: rest)
    else if a = x then (if b = fill then rest else (a, b) :: rest)
    else (x, c) :: Memory.write fill a b rest

/-- Store the bytes `bs` at the addresses `a`, `a + 1`, and so on. -/
def Memory.writeList (fill : Byte) (a : Nat) (bs : List Byte) (m : Memory) : Memory :=
  match bs with
  | [] => m
  | b :: rest => Memory.writeList fill (a + 1) rest (Memory.write fill a b m)

/-- The `n` bytes from address `a`. -/
def Memory.readList (fill : Byte) (a n : Nat) (m : Memory) : List Byte :=
  (List.range n).map fun i => Memory.read fill (a + i) m

/-- The canonical form of a store of `size` bytes: addresses strictly rising and below `size`, no entry equal to
`fill`. -/
def Memory.wf (fill : Byte) (size : Nat) (m : Memory) : Bool :=
  match m with
  | [] => true
  | (x, b) :: rest =>
    decide (b ≠ fill) && decide (x < size) && rest.all (fun c => decide (x < c.1)) && Memory.wf fill size rest

/-- What an unlisted host address reads as. DESIGN CHOICE (log entry 8), the convention of 95_test_vectors.md. -/
def hostFill : Byte := 0x00#8

/-- What an unlisted scratch index reads as. DESIGN CHOICE (log entry 7); no command reads scratch (10_state.md R39). -/
def scratchFill : Byte := 0x00#8

/-- The ring byte at offset `o` (10_state.md R27). -/
def ringByte (s : State) (o : Nat) : Byte := Memory.read s.silence o s.ring

/-- The host byte at address `a` (10_state.md R41). -/
def hostByte (s : State) (a : Nat) : Byte := Memory.read hostFill a s.hmem

/-! ### Parameters (00_scope.md R6) -/

/-- `CAP_MAX`. -/
def capMax (c : Config) : Nat := 2 ^ c.capMaxLog.val

/-- `SCRATCH_BYTES`. -/
def scratchBytes (c : Config) : Nat := c.scratchLast + 1

/-- `DEFER_THRESHOLD`. -/
def deferThreshold (c : Config) : Nat := c.deferThreshold.val

/-- The number of host addresses, `2^HA` with `HA = 64` (20_memory.md R62). -/
def hostSize : Nat := 2 ^ 64

/-- Whether the block may access host address `a`: the check of 20_memory.md R63 for one byte, `a < 2^HA` and
`HostOK(a)`. -/
def hostOK (c : Config) (a : Nat) : Bool :=
  decide (a < hostSize) && c.hostHoles.all fun h => !(decide (h.1 ≤ a) && decide (a < h.1 + h.2))

/-- The check of 20_memory.md R63 for the `n` bytes from `a`; for `n = 0` it cannot fail. -/
def hostRangeOK (c : Config) (a n : Nat) : Bool := (List.range n).all fun i => hostOK c (a + i)

/-! ### Cursors (10_state.md R28, 41_zero_copy.md R140, R141) -/

/-- `avail(w, r) = (w - r) mod CAP`, on exact integers (00_scope.md R9). -/
def availBytes (cap w r : Word) : Nat := (((w.toNat : Int) - (r.toNat : Int)) % (cap.toNat : Int)).toNat

/-- `free(w, r) = (r - w - 1) mod CAP`, on exact integers (00_scope.md R9). -/
def freeBytes (cap w r : Word) : Nat := (((r.toNat : Int) - (w.toNat : Int) - 1) % (cap.toNat : Int)).toNat

/-- `cfree(w, r) = min(free(w, r), CAP - w)` (R140). -/
def contigFree (cap w r : Word) : Nat := min (freeBytes cap w r) (cap.toNat - w.toNat)

/-- `cavail(w, r) = min(avail(w, r), CAP - r)` (R141). -/
def contigAvail (cap w r : Word) : Nat := min (availBytes cap w r) (cap.toNat - r.toNat)

/-- A cursor moved forward by `n` bytes, modulo `CAP` (R24, R25). -/
def advance (cap cursor : Word) (n : Nat) : Word := BitVec.ofNat 32 ((cursor.toNat + n) % cap.toNat)

/-- The smallest power of two that is at least `n`, for `n < 2^32` (40_ring_control.md R121). -/
def roundCapacity (n : Nat) : Nat :=
  match (List.range 32).find? (fun j => decide (n ≤ 2 ^ j)) with
  | some j => 2 ^ j
  | none => 2 ^ 32

/-! ### Ring copies (42_raw_transfer.md R170, R171) -/

/-- `RingPut(v)`: the end-of-buffer chunk, the wrapped chunk, then the release store of `WR` (R170). -/
def ringPut (v : List Byte) (s : State) : State :=
  let first := min v.length (s.cap.toNat - s.wr.toNat)
  { s with
    ring := Memory.writeList s.silence 0 (v.drop first) (Memory.writeList s.silence s.wr.toNat (v.take first) s.ring)
    wr := advance s.cap s.wr v.length }

/-- The bytes `RingGet(n)` returns: the end-of-buffer chunk, then the wrapped chunk (R171). -/
def ringBytes (n : Nat) (s : State) : List Byte :=
  let first := min n (s.cap.toNat - s.rd.toNat)
  Memory.readList s.silence s.rd.toNat first s.ring ++ Memory.readList s.silence 0 (n - first) s.ring

/-- The release store of `RD` that ends `RingGet(n)` (R171). -/
def ringDrop (n : Nat) (s : State) : State := { s with rd := advance s.cap s.rd n }

/-! ### Grants (10_state.md R37, R38; 41_zero_copy.md R148) -/

/-- Set the write grant; `(0, 0)` is no grant. -/
def setWriteGrant (base len : Word) (s : State) : State := { s with wgb := base, wgl := len }

/-- Set the read grant; `(0, 0)` is no grant. -/
def setReadGrant (base len : Word) (s : State) : State := { s with rgb := base, rgl := len }

/-- Revoke both grants (R148). -/
def revokeGrants (s : State) : State := setReadGrant 0#32 0#32 (setWriteGrant 0#32 0#32 s)

/-- Whether the 64-bit offset `off` lies in the grant of `len` bytes at `base` (R143, R146). -/
def inGrant (base len : Word) (off : Addr) : Bool :=
  decide (len ≠ 0#32) && decide (base.toNat ≤ off.toNat) && decide (off.toNat < base.toNat + len.toNat)

/-! ### Taking a fault (60_exceptions.md R231, R233) -/

/-- `FCODE` of a cause (R233). -/
def faultCode (c : FaultCode) : Byte :=
  match c with
  | .illegalCommand => 0x01#8
  | .portViolation => 0x02#8
  | .notConfigured => 0x03#8
  | .quiescenceViolation => 0x04#8
  | .badCapacity => 0x05#8
  | .dsdGeometry => 0x06#8
  | .regionViolation => 0x07#8
  | .commitOverrun => 0x08#8
  | .advanceOverrun => 0x09#8
  | .hostAccessFault => 0x0A#8

/-- `FPORT` of a port (R231). -/
def portCode (p : Port) : BitVec 2 :=
  match p with
  | .P => 0#2
  | .C => 1#2
  | .K => 2#2

/-- `raise Fault(code)` by the command `d` on the active port: the fault record is written and nothing else (R231). -/
def raiseFault (c : FaultCode) (d : Desc) (s : State) : State :=
  { s with fault := true, fcode := faultCode c, fport := portCode s.active, fdesc := d }

/-! ### Completing a command (00_scope.md R10, 10_state.md R34, R43) -/

/-- `return (val, ok)` on the active port, then `BUSY.p <- 0`; port K has no busy flag (R35). -/
def finish (val : Word) (ok : Bool) (s : State) : State :=
  { s with
    rvalP := if s.active = .P then val else s.rvalP
    rokP := if s.active = .P then ok else s.rokP
    busyP := if s.active = .P then false else s.busyP
    rvalC := if s.active = .C then val else s.rvalC
    rokC := if s.active = .C then ok else s.rokC
    busyC := if s.active = .C then false else s.busyC
    rvalK := if s.active = .K then val else s.rvalK
    rokK := if s.active = .K then ok else s.rokK }

/-! ### The checks before a command's own (60_exceptions.md R234 items 1 to 4) -/

/-- Whether the port may issue the command (30_encoding.md R92, R95). -/
def mayIssue (p : Port) (i : Instr) : Bool :=
  match i with
  | .resize _ _ | .clear | .fillsil | .sethint _ => decide (p = .K)
  | .avail | .free => true
  | .push _ _ | .push24 _ _ | .push16to32 _ _ | .pushdsd _ _ _ _ _ | .wregion _ | .winwr _ _ | .commitw _ =>
    decide (p = .P)
  | .pop _ _ | .rregion _ | .winrd _ | .advancer _ => decide (p = .C)

/-- Whether the command faults while `CFG = 0`: every one but RESIZE and SETHINT (10_state.md R22). -/
def needsConfig (i : Instr) : Bool :=
  match i with
  | .resize _ _ | .sethint _ => false
  | .clear | .fillsil | .avail | .free | .push _ _ | .push24 _ _ | .push16to32 _ _ | .pushdsd _ _ _ _ _ | .wregion _
  | .winwr _ _ | .commitw _ | .pop _ _ | .rregion _ | .winrd _ | .advancer _ => true

/-- Whether the command needs quiescence (40_ring_control.md R120). -/
def needsQuiescence (i : Instr) : Bool :=
  match i with
  | .resize _ _ | .clear | .fillsil | .sethint _ => true
  | .avail | .free | .push _ _ | .push24 _ _ | .push16to32 _ _ | .pushdsd _ _ _ _ _ | .wregion _
  | .winwr _ _ | .commitw _ | .pop _ _ | .rregion _ | .winrd _ | .advancer _ => false

/-- The first of the generic checks that fails, in the order of R234; none if all pass. -/
def genericFault (i : Instr) (s : State) : Option FaultCode :=
  if i.wellFormed = false then some .illegalCommand
  else if mayIssue s.active i = false then some .portViolation
  else if needsConfig i && !s.cfg then some .notConfigured
  else if needsQuiescence i && (s.busyP || s.busyC) then some .quiescenceViolation
  else none

/-- Run a command on the active port: the generic checks, then its body with its own checks, then its result. A
failed check takes the fault with the command's descriptor, so that no effect of the body remains (R232, R234). -/
def runCommand (i : Instr) (body : State → Except FaultCode Reply) (s : State) : Host.Outcome State Fault Refusal :=
  match genericFault i s with
  | some c => .next (raiseFault c (encode i) s)
  | none =>
    match body s with
    | .error c => .next (raiseFault c (encode i) s)
    | .ok r => .next (finish r.val r.ok r.state)

/-! ### Steps of a port up to a command's meaning (10_state.md R42) -/

/-- ISSUE of `d` on P: the latch, the busy flag, and the acquire load of `RD` (R42). -/
def issueP (d : Desc) (s : State) : State := { s with latchP := d, busyP := true, snapP := s.rd }

/-- ISSUE of `d` on C: the latch, the busy flag, and the acquire load of `WR` (R42). -/
def issueC (d : Desc) (s : State) : State := { s with latchC := d, busyC := true, snapC := s.wr }

/-! ### The host agents and the platform -/

/-- Whether host address `a` lies in the `len` bytes at `addr`. -/
def inBuffer (addr : Addr) (len : Word) (a : Addr) : Bool :=
  decide (addr.toNat ≤ a.toNat) && decide (a.toNat < addr.toNat + len.toNat)

/-- Whether `a` is a byte of the host buffer that the descriptor's command reads or writes (20_memory.md R62). -/
def usesHostByte (d : Desc) (a : Addr) : Bool :=
  match decode d with
  | .error _ => false
  | .ok i =>
    match i with
    | .push addr len | .push24 addr len | .push16to32 addr len | .pop addr len => inBuffer addr len a
    | .pushdsd addr len _ _ _ => inBuffer addr len a
    | .resize _ _ | .clear | .fillsil | .sethint _ | .avail | .free | .wregion _ | .winwr _ _ | .commitw _
    | .rregion _ | .winrd _ | .advancer _ => false

/-- Whether a command still to COMPLETE uses host byte `a` (70_reset_and_hazards.md R277). A halted block completes
nothing more. DESIGN CHOICE (log entry 19): only a host agent's stores are held to this, not the accesses the other
port's command makes at its COMPLETE. -/
def hostByteInFlight (s : State) (a : Addr) : Bool :=
  !s.fault && ((s.busyP && usesHostByte s.latchP a) || (s.busyC && usesHostByte s.latchC a))

/-- A host agent's store of one byte: refused for a buffer in flight (R277, log entry 10), else host memory holds it
(R41). DESIGN CHOICE (log entry 18): so it does where `HostOK` is false, on which the spec is silent; R63 checks only
the block's own accesses. -/
def storeHost (a : Addr) (b : Byte) (s : State) : Host.Outcome State Fault Refusal :=
  if hostByteInFlight s a then .refused .hostBufferInUse
  else .next { s with hmem := Memory.write hostFill a.toNat b s.hmem }

/-- Reset (70_reset_and_hazards.md R270): every element of block state at its value of 10_state.md R48, a command in
flight discarded, the fault record cleared; host memory, the parameters and the agents are not touched. -/
def resetBlock (s : State) : State :=
  { State.resetWith s.config with
    hmem := s.hmem
    offersP := s.offersP
    offersC := s.offersC
    offersK := s.offersK
    turns := s.turns
    active := s.active }

end Sys2Proof.Machine
end

