-- ==== Sys2Proof/Machine/Operands.lean ====
section
/-! DEFINITION. The operand forms of the commands that use host memory: source buffers of bytes, containers, samples
and planar channel blocks, and the bytes each is converted to (43_format_push.md). -/

namespace Sys2Proof.Machine

/-- `MemRead(addr, n)`: the `n` host bytes from `addr` (00_scope.md R10, 20_memory.md R63). -/
def memRead (s : State) (a n : Nat) : List Byte := Memory.readList hostFill a n s.hmem

/-- `MemWrite(addr, n, v)`: the bytes `v` at `addr` (00_scope.md R10, 20_memory.md R63). -/
def memWrite (a : Nat) (v : List Byte) (s : State) : State :=
  { s with hmem := Memory.writeList hostFill a v s.hmem }

/-- `clamp(nreq, u_out)`: whole units that the request, the scratch buffer and the free space seen by P allow
(43_format_push.md R191). -/
def clampUnits (s : State) (nreq uout : Nat) : Nat :=
  min nreq (min (scratchBytes s.config / uout) (freeBytes s.cap s.wr s.snapP / uout))

/-- `repack`: the three bytes a container at host address `a` yields (R198). -/
def repack (s : State) (side : SampleSide) (a : Nat) : List Byte :=
  match side with
  | .lsb => [hostByte s a, hostByte s (a + 1), hostByte s (a + 2)]
  | .msb => [hostByte s (a + 1), hostByte s (a + 2), hostByte s (a + 3)]

/-- The `3k` bytes of the first `k` containers at `a` (R199). -/
def staged24 (s : State) (side : SampleSide) (a k : Nat) : List Byte :=
  (List.range k).flatMap fun j => repack s side (a + 4 * j)

/-- `up`: the four bytes a 16-bit sample at host address `a` yields, its own two uppermost (R200). -/
def upsample (s : State) (a : Nat) : List Byte := [0x00#8, 0x00#8, hostByte s a, hostByte s (a + 1)]

/-- The `4k` bytes of the first `k` samples at `a` (R201). -/
def staged16 (s : State) (a k : Nat) : List Byte :=
  (List.range k).flatMap fun j => upsample s (a + 2 * j)

/-- `rev8`: the bits of a byte in the opposite order (R202). -/
def rev8 (b : Byte) : Byte := b.reverse

/-- The host address of byte `i` of channel block `c`, for blocks of `blk` bytes at `a` (R203). -/
def planarAddr (a blk c i : Nat) : Nat := a + c * blk + i

/-- Whether every byte of the first `k` frames of every channel may be accessed (R204). -/
def planarOK (s : State) (a blk channels k : Nat) : Bool :=
  (List.range channels).all fun c => (List.range (4 * k)).all fun i => hostOK s.config (planarAddr a blk c i)

/-- `frame(c, g)` after the byte swap and the bit reversal (R203). -/
def dsdFrame (s : State) (a blk : Nat) (br bs : Bool) (c g : Nat) : List Byte :=
  let bytes := (List.range 4).map fun i => hostByte s (planarAddr a blk c (4 * g + i))
  let swapped := if bs then bytes.reverse else bytes
  if br then swapped.map rev8 else swapped

/-- `interleave(k)`: the frames round-robin across the channels in channel order (R203). -/
def interleave (s : State) (a blk channels : Nat) (br bs : Bool) (k : Nat) : List Byte :=
  (List.range k).flatMap fun g => (List.range channels).flatMap fun c => dsdFrame s a blk br bs c g

/-- The end of every format push: the staged bytes go to the scratch buffer and from there into the ring, the write
grant is revoked, and the consumed input bytes are the result (R190). -/
def pushStaged (staged : List Byte) (consumed : Nat) (s : State) : Reply :=
  let s₁ := { s with scratch := Memory.writeList scratchFill 0 staged s.scratch }
  { state := setWriteGrant 0#32 0#32 (ringPut staged s₁), val := BitVec.ofNat 32 consumed, ok := true }

end Sys2Proof.Machine
end

