-- ==== Sys2Proof/Machine/Flags.lean ====
section
/-! DEFINITION. The alignment state and its flag `CONF`: the hint codes, the classification of a window, deferral and
the conversion mode (43_format_push.md R193 to R197). The other flags of 10_state.md R47 (`ROK.p`, `BUSY.p`, `FAULT`)
are written by `finish`, the ISSUE operations and `raiseFault` of Ops. -/

namespace Sys2Proof.Machine

/-- The hint of a code: 0 none, 1 LsbAligned, 2 MsbAligned; higher codes are refused before (30_encoding.md R96). -/
def hintOfCode (h : Byte) : Option SampleSide :=
  match h.toNat with
  | 1 => some .lsb
  | 2 => some .msb
  | _ => none

/-- The mode with the same code as a hint: none gives Unknown (R193). -/
def modeOfHint (h : Option SampleSide) : AlignMode :=
  match h with
  | none => .unknown
  | some .lsb => .lsb
  | some .msb => .msb

/-- The side a hint stands for, LsbAligned if there is none (R196, R197). -/
def sideOfHint (h : Option SampleSide) : SampleSide :=
  match h with
  | none => .lsb
  | some side => side

/-- The mode of a side. -/
def modeOfSide (side : SampleSide) : AlignMode :=
  match side with
  | .lsb => .lsb
  | .msb => .msb

/-- `DETECT_WINDOW` (00_scope.md R6). -/
def detectWindow : Nat := 32

/-- Whether byte `b` of each of the first `w` containers at `a` is zero (R195). -/
def byteAlwaysZero (s : State) (a w b : Nat) : Bool :=
  (List.range w).all fun j => decide (hostByte s (a + 4 * j + b) = 0x00#8)

/-- Deferred accumulation of `k` containers and forced resolution beyond the threshold (R196). -/
def deferUnits (k : Nat) (s : State) : State :=
  let n := s.defcnt.toNat + k
  if n > deferThreshold s.config then
    { s with mode := modeOfSide (sideOfHint s.hint), conf := true, defcnt := BitVec.ofNat 32 n }
  else { s with mode := .deferred, defcnt := BitVec.ofNat 32 n }

/-- Classification of the window of a PUSH24 that consumes `k` containers at `a` (R194 to R196). -/
def detect (a k : Nat) (s : State) : State :=
  let w := min detectWindow k
  match byteAlwaysZero s a w 0, byteAlwaysZero s a w 3 with
  | true, true => deferUnits k s
  | false, true => { s with mode := .lsb, conf := true }
  | true, false => { s with mode := .msb, conf := true }
  | false, false => { s with mode := .lsb, conf := true }

/-- Detection runs if and only if `CONF = 0` and `k > 0` (R194). -/
def detectIfNeeded (a k : Nat) (s : State) : State :=
  if s.conf = false ∧ 0 < k then detect a k s else s

/-- The one mode that converts every container of the command (R197). -/
def conversionSide (s : State) : SampleSide :=
  match s.mode with
  | .lsb => .lsb
  | .msb => .msb
  | .unknown | .deferred => sideOfHint s.hint

/-- The effect of a hint update on the alignment state (R193). -/
def updateHint (h : Option SampleSide) (s : State) : State :=
  { s with hint := h, mode := modeOfHint h, conf := false, defcnt := 0#32 }

end Sys2Proof.Machine
end

