-- ==== Sys2Proof/Machine/FormatPush.lean ====
section
/-! DEFINITION. The hint update and the format-converting pushes (43_format_push.md): SETHINT, PUSH24, PUSH16TO32,
PUSHDSD. -/

namespace Sys2Proof.Machine

/-- SETHINT's effects (R193). -/
def sethintBody (hint : Byte) (s : State) : Except FaultCode Reply :=
  .ok { state := updateHint (hintOfCode hint) s, val := 0#32, ok := true }

/-- SETHINT (R193). -/
def execSethint (hint : Byte) (s : State) : Host.Outcome State Fault Refusal :=
  runCommand (.sethint hint) (sethintBody hint) s

/-- PUSH24's own check and effects: clamp, host check, detection, then the repacked bytes (R199). -/
def push24Body (addr : Addr) (len : Word) (s : State) : Except FaultCode Reply :=
  let k := clampUnits s (len.toNat / 4) 3
  if hostRangeOK s.config addr.toNat (4 * k) = false then .error .hostAccessFault
  else
    let s₁ := detectIfNeeded addr.toNat k s
    .ok (pushStaged (staged24 s₁ (conversionSide s₁) addr.toNat k) (4 * k) s₁)

/-- PUSH24 (R199). -/
def execPush24 (addr : Addr) (len : Word) (s : State) : Host.Outcome State Fault Refusal :=
  runCommand (.push24 addr len) (push24Body addr len) s

/-- PUSH16TO32's own check and effects (R201). -/
def push16to32Body (addr : Addr) (len : Word) (s : State) : Except FaultCode Reply :=
  let k := clampUnits s (len.toNat / 2) 4
  if hostRangeOK s.config addr.toNat (2 * k) = false then .error .hostAccessFault
  else .ok (pushStaged (staged16 s addr.toNat k) (2 * k) s)

/-- PUSH16TO32 (R201). -/
def execPush16to32 (addr : Addr) (len : Word) (s : State) : Host.Outcome State Fault Refusal :=
  runCommand (.push16to32 addr len) (push16to32Body addr len) s

/-- PUSHDSD's own checks and effects: the geometry, the clamp, the host check, then the interleaved frames (R204). -/
def pushdsdBody (addr : Addr) (len : Word) (channels : Byte) (br bs : Bool) (s : State) : Except FaultCode Reply :=
  let c := channels.toNat
  if c = 0 ∨ len.toNat % c ≠ 0 then .error .dsdGeometry
  else
    let blk := len.toNat / c
    let k := clampUnits s (blk / 4) (4 * c)
    if planarOK s addr.toNat blk c k = false then .error .hostAccessFault
    else .ok (pushStaged (interleave s addr.toNat blk c br bs k) (4 * c * k) s)

/-- PUSHDSD (R204). -/
def execPushdsd (addr : Addr) (len : Word) (channels : Byte) (br bs : Bool) (s : State) :
    Host.Outcome State Fault Refusal :=
  runCommand (.pushdsd addr len channels br bs) (pushdsdBody addr len channels br bs) s

end Sys2Proof.Machine
end

