-- ==== Sys2Proof/Machine/RawTransfer.lean ====
section
/-! DEFINITION. Raw copying transfers (42_raw_transfer.md): PUSH and POP. -/

namespace Sys2Proof.Machine

/-- PUSH's own check and effects: the clamp to the free space seen by P, the host check, the ring copy (R172). -/
def pushBody (addr : Addr) (len : Word) (s : State) : Except FaultCode Reply :=
  let n := min len.toNat (freeBytes s.cap s.wr s.snapP)
  if hostRangeOK s.config addr.toNat n = false then .error .hostAccessFault
  else .ok {
    state := setWriteGrant 0#32 0#32 (ringPut (memRead s addr.toNat n) s)
    val := BitVec.ofNat 32 n, ok := true }

/-- PUSH (R172). -/
def execPush (addr : Addr) (len : Word) (s : State) : Host.Outcome State Fault Refusal :=
  runCommand (.push addr len) (pushBody addr len) s

/-- POP's own check and effects: the clamp to the bytes seen by C, the host check, the ring copy to host memory, the
move of `RD` (R173). DESIGN CHOICE (log entry 19): so it is where the destination overlaps the source buffer of a push
in flight, on which R277 and R78 are silent. -/
def popBody (addr : Addr) (len : Word) (s : State) : Except FaultCode Reply :=
  let n := min len.toNat (availBytes s.cap s.snapC s.rd)
  if hostRangeOK s.config addr.toNat n = false then .error .hostAccessFault
  else .ok {
    state := setReadGrant 0#32 0#32 (memWrite addr.toNat (ringBytes n s) (ringDrop n s))
    val := BitVec.ofNat 32 n, ok := true }

/-- POP (R173). -/
def execPop (addr : Addr) (len : Word) (s : State) : Host.Outcome State Fault Refusal :=
  runCommand (.pop addr len) (popBody addr len) s

end Sys2Proof.Machine
end

