-- ==== Sys2Proof/Machine/RingControl.lean ====
section
/-! DEFINITION. Ring configuration and status commands (40_ring_control.md): RESIZE, CLEAR, FILLSIL, AVAIL, FREE. -/

namespace Sys2Proof.Machine

/-- RESIZE's own check and effects (R121). New storage is all silence: nothing is listed beside `SILENCE`. -/
def resizeBody (len : Word) (silence : Byte) (s : State) : Except FaultCode Reply :=
  if len.toNat = 0 then .error .badCapacity
  else if roundCapacity len.toNat > capMax s.config then .error .badCapacity
  else .ok {
    state := revokeGrants { s with
      cap := BitVec.ofNat 32 (roundCapacity len.toNat), cfg := true, ring := [], wr := 0#32, rd := 0#32,
      silence := silence }
    val := 0#32, ok := true }

/-- RESIZE (R121). -/
def execResize (len : Word) (silence : Byte) (s : State) : Host.Outcome State Fault Refusal :=
  runCommand (.resize len silence) (resizeBody len silence) s

/-- CLEAR's effects: cursors, alignment state and grants to zero, storage kept (R124). -/
def clearBody (s : State) : Except FaultCode Reply :=
  .ok {
    state := revokeGrants { s with
      wr := 0#32, rd := 0#32, mode := .unknown, hint := none, conf := false, defcnt := 0#32 }
    val := 0#32, ok := true }

/-- CLEAR (R124). -/
def execClear (s : State) : Host.Outcome State Fault Refusal := runCommand .clear clearBody s

/-- FILLSIL's effects: every ring byte becomes `SILENCE`, so nothing is listed; grants revoked (R125). -/
def fillsilBody (s : State) : Except FaultCode Reply :=
  .ok { state := revokeGrants { s with ring := [] }, val := 0#32, ok := true }

/-- FILLSIL (R125). -/
def execFillsil (s : State) : Host.Outcome State Fault Refusal := runCommand .fillsil fillsilBody s

/-- AVAIL's result, from both live cursors (R122). -/
def availBody (s : State) : Except FaultCode Reply :=
  .ok { state := s, val := BitVec.ofNat 32 (availBytes s.cap s.wr s.rd), ok := true }

/-- AVAIL (R122). -/
def execAvail (s : State) : Host.Outcome State Fault Refusal := runCommand .avail availBody s

/-- FREE's result, from both live cursors (R123). -/
def freeBody (s : State) : Except FaultCode Reply :=
  .ok { state := s, val := BitVec.ofNat 32 (freeBytes s.cap s.wr s.rd), ok := true }

/-- FREE (R123). -/
def execFree (s : State) : Host.Outcome State Fault Refusal := runCommand .free freeBody s

end Sys2Proof.Machine
end

