-- ==== Sys2Proof/Machine/ZeroCopy.lean ====
section
/-! DEFINITION. Zero-copy region commands (41_zero_copy.md): WREGION, WINWR, COMMITW, RREGION, WINRD, ADVANCER. -/

namespace Sys2Proof.Machine

/-- WREGION's effects: a write grant at `WR`, or none (R142). -/
def wregionBody (len : Word) (s : State) : Except FaultCode Reply :=
  if len.toNat ≤ contigFree s.cap s.wr s.snapP then
    .ok { state := setWriteGrant s.wr len s, val := s.wr, ok := true }
  else .ok { state := setWriteGrant 0#32 0#32 s, val := 0#32, ok := false }

/-- WREGION (R142). -/
def execWregion (len : Word) (s : State) : Host.Outcome State Fault Refusal :=
  runCommand (.wregion len) (wregionBody len) s

/-- WINWR's own check and effect: one ring byte inside the write grant (R143). -/
def winwrBody (off : Addr) (byte : Byte) (s : State) : Except FaultCode Reply :=
  if inGrant s.wgb s.wgl off = false then .error .regionViolation
  else .ok { state := { s with ring := Memory.write s.silence off.toNat byte s.ring }, val := 0#32, ok := true }

/-- WINWR (R143). -/
def execWinwr (off : Addr) (byte : Byte) (s : State) : Host.Outcome State Fault Refusal :=
  runCommand (.winwr off byte) (winwrBody off byte) s

/-- COMMITW's own check and effects: `WR` moves past the committed bytes, the grant ends (R144). -/
def commitwBody (n : Word) (s : State) : Except FaultCode Reply :=
  if n.toNat > s.wgl.toNat then .error .commitOverrun
  else .ok {
    state := setWriteGrant 0#32 0#32 { s with wr := advance s.cap s.wr n.toNat }, val := 0#32, ok := true }

/-- COMMITW (R144). -/
def execCommitw (n : Word) (s : State) : Host.Outcome State Fault Refusal :=
  runCommand (.commitw n) (commitwBody n) s

/-- RREGION's effects: a read grant at `RD`, or none (R145). -/
def rregionBody (len : Word) (s : State) : Except FaultCode Reply :=
  if len.toNat ≤ contigAvail s.cap s.snapC s.rd then
    .ok { state := setReadGrant s.rd len s, val := s.rd, ok := true }
  else .ok { state := setReadGrant 0#32 0#32 s, val := 0#32, ok := false }

/-- RREGION (R145). -/
def execRregion (len : Word) (s : State) : Host.Outcome State Fault Refusal :=
  runCommand (.rregion len) (rregionBody len) s

/-- WINRD's own check and result: one ring byte of the read grant, zero-extended (R146). -/
def winrdBody (off : Addr) (s : State) : Except FaultCode Reply :=
  if inGrant s.rgb s.rgl off = false then .error .regionViolation
  else .ok { state := s, val := (ringByte s off.toNat).setWidth 32, ok := true }

/-- WINRD (R146). -/
def execWinrd (off : Addr) (s : State) : Host.Outcome State Fault Refusal :=
  runCommand (.winrd off) (winrdBody off) s

/-- ADVANCER's own check and effects: `RD` moves past the released bytes, the grant ends (R147). -/
def advancerBody (n : Word) (s : State) : Except FaultCode Reply :=
  if n.toNat > s.rgl.toNat then .error .advanceOverrun
  else .ok { state := setReadGrant 0#32 0#32 (ringDrop n.toNat s), val := 0#32, ok := true }

/-- ADVANCER (R147). -/
def execAdvancer (n : Word) (s : State) : Host.Outcome State Fault Refusal :=
  runCommand (.advancer n) (advancerBody n) s

end Sys2Proof.Machine
end

