-- ==== Sys2Proof/Machine/Dispatch.lean ====
section
/-! DEFINITION. The one match from a command to its meaning. -/

namespace Sys2Proof.Machine

/-- What the COMPLETE step of P or C, or the step of K, does with the command `i` on the port `s.active`. -/
def exec (i : Instr) (s : State) : Host.Outcome State Fault Refusal :=
  match i with
  | .resize len silence => Sys2Proof.Machine.execResize len silence s
  | .clear => Sys2Proof.Machine.execClear s
  | .fillsil => Sys2Proof.Machine.execFillsil s
  | .sethint hint => Sys2Proof.Machine.execSethint hint s
  | .avail => Sys2Proof.Machine.execAvail s
  | .free => Sys2Proof.Machine.execFree s
  | .push addr len => Sys2Proof.Machine.execPush addr len s
  | .push24 addr len => Sys2Proof.Machine.execPush24 addr len s
  | .push16to32 addr len => Sys2Proof.Machine.execPush16to32 addr len s
  | .pushdsd addr len channels br bs => Sys2Proof.Machine.execPushdsd addr len channels br bs s
  | .wregion len => Sys2Proof.Machine.execWregion len s
  | .winwr off byte => Sys2Proof.Machine.execWinwr off byte s
  | .commitw n => Sys2Proof.Machine.execCommitw n s
  | .pop addr len => Sys2Proof.Machine.execPop addr len s
  | .rregion len => Sys2Proof.Machine.execRregion len s
  | .winrd off => Sys2Proof.Machine.execWinrd off s
  | .advancer n => Sys2Proof.Machine.execAdvancer n s

end Sys2Proof.Machine
end

