-- ==== Sys2Proof/Machine/Ports.lean ====
section
/-! DEFINITION. The steps of the ports (10_state.md R42 to R44), halting (R50), a turn of the schedule, and placing a
descriptor so that the next step runs it. -/

namespace Sys2Proof.Machine

/-- Decode a descriptor on the active port and run it; an illegal one takes ILLEGAL_COMMAND (30_encoding.md R93, R94,
R96; decoding happens at COMPLETE, 10_state.md R42). -/
def runDescriptor (d : Desc) (s : State) : Host.Outcome State Fault Refusal :=
  match decode d with
  | .error _ => .next (raiseFault .illegalCommand d s)
  | .ok i => exec i s

/-- The next step of P: COMPLETE if a command is in flight (R43), else ISSUE of the next offer (R42), else nothing. -/
def stepP (s : State) : Host.Outcome State Fault Refusal :=
  if s.busyP then runDescriptor s.latchP s
  else
    match s.offersP with
    | [] => .next s
    | d :: ds => .next (issueP d { s with offersP := ds })

/-- The next step of C: COMPLETE if a command is in flight (R43), else ISSUE of the next offer (R42), else nothing. -/
def stepC (s : State) : Host.Outcome State Fault Refusal :=
  if s.busyC then runDescriptor s.latchC s
  else
    match s.offersC with
    | [] => .next s
    | d :: ds => .next (issueC d { s with offersC := ds })

/-- The step of K: the next offer (R44), if there is one. -/
def stepK (s : State) : Host.Outcome State Fault Refusal :=
  match s.offersK with
  | [] => .next s
  | d :: ds => runDescriptor d { s with offersK := ds }

/-- A turn of the active port: no step of any port is enabled while `FAULT = 1` (R50). -/
def stepPort (s : State) : Host.Outcome State Fault Refusal :=
  if s.fault then .fault .halted
  else
    match s.active with
    | .P => stepP s
    | .C => stepC s
    | .K => stepK s

/-- No turn is left: the block waits unchanged (log entry 4), or is halted if `FAULT = 1` (R50). -/
def stepIdle (s : State) : Host.Outcome State Fault Refusal := if s.fault then .fault .halted else .next s

/-- One turn of the schedule, in the state with the turn taken off. -/
def takeTurn (t : Turn) (s : State) : Host.Outcome State Fault Refusal :=
  match t with
  | .port p => stepPort { s with active := p }
  | .hostStore a b => storeHost a b s
  | .reset => .next (resetBlock s)

/-- The port that gets a descriptor placed from outside: the producer's or the consumer's for an opcode of theirs, K
for every other (30_encoding.md R92; AVAIL and FREE run on K as on any port). -/
def fetchPort (d : Desc) : Port :=
  if 0x10 ≤ (descOpc d).toNat ∧ (descOpc d).toNat ≤ 0x16 then .P
  else if 0x20 ≤ (descOpc d).toNat ∧ (descOpc d).toNat ≤ 0x23 then .C
  else .K

/-- The state in which the very next step runs the descriptor: offered on K, or, for a command of P or C, already
ISSUEd there; the next turn is that port's (log entry 14). -/
def placeDescriptor (d : Desc) (s : State) : State :=
  match fetchPort d with
  | .P => { issueP d s with turns := .port .P :: s.turns }
  | .C => { issueC d s with turns := .port .C :: s.turns }
  | .K => { s with offersK := d :: s.offersK, turns := .port .K :: s.turns }

end Sys2Proof.Machine
end

