-- ==== Sys2Proof/Machine/Step.lean ====
section
/-! DEFINITION. One step of the machine: the step that the schedule says comes next (10_state.md R45). -/

namespace Sys2Proof.Machine

/-- One step: the next turn of the schedule, or waiting when there is none. -/
def step (s : State) : Host.Outcome State Fault Refusal :=
  match s.turns with
  | [] => stepIdle s
  | t :: ts => takeTurn t { s with turns := ts }

/-- The state in which the very next step runs the descriptor whose bits are the low `nbits` bits of `w`, its bytes
laid out as 30_encoding.md R100 says. -/
def State.withFetchWord (s : State) (nbits w : Nat) : State := placeDescriptor (descOfBytes (tableBytes nbits w)) s

end Sys2Proof.Machine
end

