-- ==== Sys2Proof/Safety.lean ====
section
/-! DEFINITION. The terms in which claims about runs are made: the invariant of the block, the bytes it holds as a
queue, the descriptor a port is about to run, and a successful end state. -/

namespace Sys2Proof.Machine

/-- A state that may end a successful run: `FAULT = 0` (60_exceptions.md R236). -/
def State.unfaulted (s : State) : Prop := s.fault = false

/-- The ring's own invariant: a capacity that is a power of two up to `CAP_MAX` and cursors below it once configured
(10_state.md R21, R23 to R25); no storage, zero cursors and no grant before (R22, R48). -/
def RingInv (s : State) : Prop :=
  if s.cfg then
    (∃ j, j ≤ s.config.capMaxLog.val ∧ s.cap.toNat = 2 ^ j) ∧ s.wr.toNat < s.cap.toNat ∧ s.rd.toNat < s.cap.toNat
  else s.ring = [] ∧ s.wr = 0#32 ∧ s.rd = 0#32 ∧ s.wgl = 0#32 ∧ s.rgl = 0#32

/-- The three byte stores are in canonical form and hold nothing outside their address spaces (20_memory.md R60). -/
def StoresInv (s : State) : Prop :=
  Memory.wf hostFill hostSize s.hmem = true ∧ Memory.wf s.silence s.cap.toNat s.ring = true ∧
    Memory.wf scratchFill (scratchBytes s.config) s.scratch = true

/-- The alignment state: a confirmed mode is LsbAligned or MsbAligned, an unconfirmed one is Unknown, Deferred or the
hint's (43_format_push.md R194, R197), and the deferred count stays in its bounds (10_state.md R33). -/
def AlignInv (s : State) : Prop :=
  (s.conf = true → s.mode = .lsb ∨ s.mode = .msb) ∧
    (s.conf = false → s.mode = .unknown ∨ s.mode = .deferred ∨ (s.hint ≠ none ∧ s.mode = modeOfHint s.hint)) ∧
    (s.conf = false → s.defcnt.toNat ≤ deferThreshold s.config) ∧
    s.defcnt.toNat ≤ deferThreshold s.config + 2 ^ 31

/-- An outstanding grant starts at its cursor and lies in the contiguous bytes the live cursors allow
(41_zero_copy.md R140 to R145). -/
def GrantInv (s : State) : Prop :=
  (s.wgl ≠ 0#32 → s.wgb = s.wr ∧ s.wgl.toNat ≤ contigFree s.cap s.wr s.rd) ∧
    (s.rgl ≠ 0#32 → s.rgb = s.rd ∧ s.rgl.toNat ≤ contigAvail s.cap s.wr s.rd)

/-- A snapshot in use is a value the other cursor had, from which it has only moved forward, by no more than the ring
allows (10_state.md R36, 20_memory.md R72). -/
def SnapInv (s : State) : Prop :=
  (s.cfg = true → s.busyP = true →
    s.snapP.toNat < s.cap.toNat ∧ availBytes s.cap s.rd s.snapP ≤ availBytes s.cap s.wr s.snapP) ∧
  (s.cfg = true → s.busyC = true →
    s.snapC.toNat < s.cap.toNat ∧ availBytes s.cap s.snapC s.rd ≤ availBytes s.cap s.wr s.rd)

/-- The fault record is empty, or names one of the causes, a port, and the descriptor that stays in flight there
(60_exceptions.md R231, R233). -/
def FaultInv (s : State) : Prop :=
  (s.fault = false → s.fcode = 0#8 ∧ s.fport = 0#2 ∧ s.fdesc = 0#128) ∧
    (s.fault = true → 1 ≤ s.fcode.toNat ∧ s.fcode.toNat ≤ 0x0A ∧ s.fport.toNat ≤ 2 ∧
      (s.fport = 0#2 → s.busyP = true ∧ s.fdesc = s.latchP) ∧ (s.fport = 1#2 → s.busyC = true ∧ s.fdesc = s.latchC))

/-- The invariant that every step keeps. -/
structure Inv (s : State) : Prop where
  ring : RingInv s
  stores : StoresInv s
  align : AlignInv s
  grants : GrantInv s
  snaps : SnapInv s
  record : FaultInv s

/-- The bytes available to the consumer, oldest first: `RING[(RD + i) mod CAP]` (10_state.md R28). -/
def contents (s : State) : List Byte :=
  (List.range (availBytes s.cap s.wr s.rd)).map fun i => ringByte s ((s.rd.toNat + i) % s.cap.toNat)

/-- The descriptor that the next step of port `p` decodes and runs: in flight on P or C, offered on K. -/
def pending (p : Port) (d : Desc) (s : State) : Prop :=
  match p with
  | .P => s.busyP = true ∧ s.latchP = d
  | .C => s.busyC = true ∧ s.latchC = d
  | .K => s.offersK.head? = some d

/-- The state in which a turn of port `p`, with the turns `ts` left after it, runs its pending descriptor: the port is
active, and K's offer is taken. -/
def atTurn (p : Port) (ts : List Turn) (s : State) : State :=
  match p with
  | .P => { s with turns := ts, active := .P }
  | .C => { s with turns := ts, active := .C }
  | .K => { s with turns := ts, active := .K, offersK := s.offersK.tail }

/-! ### What claims say of descriptors and faults -/

/-- The descriptor is that of a command with a host buffer, the `LEN` bytes at `ADDR` (20_memory.md R62), and byte `a`
is one of them. -/
def BufferByte (d : Desc) (a : Addr) : Prop :=
  ∃ addr len,
    (decode d = .ok (.push addr len) ∨ decode d = .ok (.push24 addr len) ∨ decode d = .ok (.push16to32 addr len) ∨
      (∃ c br bs, decode d = .ok (.pushdsd addr len c br bs)) ∨ decode d = .ok (.pop addr len)) ∧
    addr.toNat ≤ a.toNat ∧ a.toNat < addr.toNat + len.toNat

/-- Byte `a` lies in the host buffer of a command between its ISSUE and its COMPLETE (70_reset_and_hazards.md R277). -/
def BufferInFlight (s : State) (a : Addr) : Prop :=
  s.busyP = true ∧ BufferByte s.latchP a ∨ s.busyC = true ∧ BufferByte s.latchC a

/-- The opcodes of 30_encoding.md R92. -/
def assignedOpcodes : List Nat :=
  [0x01, 0x02, 0x03, 0x04, 0x08, 0x09, 0x10, 0x11, 0x12, 0x13, 0x14, 0x15, 0x16, 0x20, 0x21, 0x22, 0x23]

/-- A field that the table of R92 does not list for the descriptor's opcode is not zero (R94). -/
def UnusedFieldNonzero (d : Desc) : Prop :=
  (descImm d ≠ 0#8 ∧ (descOpc d).toNat ∉ [0x01, 0x04, 0x13, 0x15]) ∨
    ((descBr d = true ∨ descBs d = true) ∧ (descOpc d).toNat ≠ 0x13) ∨
    (descLen d ≠ 0#32 ∧
      (descOpc d).toNat ∉ [0x01, 0x10, 0x11, 0x12, 0x13, 0x14, 0x16, 0x20, 0x21, 0x23]) ∨
    (descAddr d ≠ 0#64 ∧ (descOpc d).toNat ∉ [0x10, 0x11, 0x12, 0x13, 0x15, 0x20, 0x22])

/-- The port may issue the opcode: the column "port" of R92, in numbers. -/
def PortAllowed (p : Port) (op : Nat) : Prop :=
  match p with
  | .P => op = 0x08 ∨ op = 0x09 ∨ (0x10 ≤ op ∧ op ≤ 0x16)
  | .C => op = 0x08 ∨ op = 0x09 ∨ (0x20 ≤ op ∧ op ≤ 0x23)
  | .K => op ≤ 0x09

/-- The state with the fault record of a command `d` on the active port, and nothing else changed (60_exceptions.md
R231). -/
def withRecord (code : Byte) (d : Desc) (s : State) : State :=
  { s with
    fault := true
    fcode := code
    fport := if s.active = .P then 0#2 else if s.active = .C then 1#2 else 2#2
    fdesc := d }

/-! ### Sequences of copying transfers (42_raw_transfer.md R175) -/

/-- P issues PUSH and completes it back to back: the bytes offered and the state after, if all were accepted. -/
def pushWhole (addr : Addr) (len : Word) (s : State) : Option (List Byte × State) :=
  match exec (.push addr len) { issueP (encode (.push addr len)) s with active := .P } with
  | .next t => if t.fault = false ∧ t.rvalP = len then some (memRead s addr.toNat len.toNat, t) else none
  | .fault _ => none
  | .refused _ => none

/-- C issues POP and completes it back to back: the bytes delivered and the state after, if it was given as many as
it wanted. -/
def popWhole (addr : Addr) (len : Word) (s : State) : Option (List Byte × State) :=
  match exec (.pop addr len) { issueC (encode (.pop addr len)) s with active := .C } with
  | .next t => if t.fault = false ∧ t.rvalC = len then some (memRead t addr.toNat len.toNat, t) else none
  | .fault _ => none
  | .refused _ => none

/-- A sequence of transfers, each whole: all their bytes in order, and the state after the last. -/
def transferAll (one : Addr → Word → State → Option (List Byte × State)) (l : List (Addr × Word)) (s : State) :
    Option (List Byte × State) :=
  match l with
  | [] => some ([], s)
  | (addr, len) :: rest =>
    match one addr len s with
    | none => none
    | some (bytes, t) =>
      match transferAll one rest t with
      | none => none
      | some (more, u) => some (bytes ++ more, u)

end Sys2Proof.Machine
end

