-- ==== Sys2Proof/Certificates/Slice0/Obligations.lean ====
section
/-! DEFINITION. The statements for the provers, from the numbered rules of spec/. -/

open Sys2Proof Sys2Proof.Machine

/-! ### Reset and the invariant -/

/-- Reset, from any state, sets every element of block state for which 10_state.md R48 gives a value to that value,
and leaves host memory alone (70_reset_and_hazards.md R270). That it also leaves the parameters, the agents' offers and
the rest of the schedule alone is the model's reading (log entry 12, DEDUCED). -/
def Obligations.ResetSetsStatedValues : Prop :=
  ∀ (s : State) (ts : List Turn), s.turns = .reset :: ts →
    ∃ t, step s = .next t ∧
      t.cfg = false ∧ t.wr = 0#32 ∧ t.rd = 0#32 ∧ t.ring = [] ∧
      t.mode = .unknown ∧ t.hint = none ∧ t.conf = false ∧ t.defcnt = 0#32 ∧
      t.rvalP = 0#32 ∧ t.rvalC = 0#32 ∧ t.rvalK = 0#32 ∧ t.rokP = false ∧ t.rokC = false ∧ t.rokK = false ∧
      t.busyP = false ∧ t.busyC = false ∧ t.latchP = 0#128 ∧ t.latchC = 0#128 ∧ t.snapP = 0#32 ∧ t.snapC = 0#32 ∧
      t.wgb = 0#32 ∧ t.wgl = 0#32 ∧ t.rgb = 0#32 ∧ t.rgl = 0#32 ∧
      t.fault = false ∧ t.fcode = 0#8 ∧ t.fport = 0#2 ∧ t.fdesc = 0#128 ∧
      t.hmem = s.hmem ∧ t.config = s.config ∧
      t.offersP = s.offersP ∧ t.offersC = s.offersC ∧ t.offersK = s.offersK ∧ t.turns = ts

/-- The state after reset meets the invariant, whatever the OPEN parameters are (10_state.md R48; 00_scope.md R6). -/
def Obligations.ResetStateMeetsInvariant : Prop := ∀ c : Config, Inv (State.resetWith c)

/-- Every step keeps the invariant: cursors below a power-of-two capacity, canonical stores inside their address
spaces, a legal alignment state, grants inside the contiguous bytes, snapshots within the staleness bound, a legal
fault record. -/
def Obligations.StepKeepsInvariant : Prop := ∀ s t : State, Inv s → step s = .next t → Inv t

/-! ### Encoding -/

/-- Decoding the descriptor of a well-formed command gives the command back, with every operand at every value. -/
def Obligations.DecodeOfEncode : Prop := ∀ i : Instr, i.wellFormed = true → decode (encode i) = .ok i

/-- A descriptor that decodes is exactly the descriptor of the command it decodes to: no bit is ignored
(30_encoding.md R94), and the command is well formed (R96). -/
def Obligations.EncodeOfDecode : Prop :=
  ∀ (d : Desc) (i : Instr), decode d = .ok i → encode i = d ∧ i.wellFormed = true

/-- Words written out in 95_test_vectors.md decode to the commands they stand for. -/
def Obligations.WrittenWordsDecode : Prop :=
  decode 0x0000000000000000000003E800008001#128 = .ok (.resize 1000#32 0x80#8) ∧
  decode 0x00000000000000000000000000000204#128 = .ok (.sethint 2#8) ∧
  decode 0x00000000000010000000000600000010#128 = .ok (.push 0x1000#64 6#32) ∧
  decode 0x00000000000010000000001000010213#128 = .ok (.pushdsd 0x1000#64 16#32 2#8 true false) ∧
  decode 0x000000000000000D0000000000005A15#128 = .ok (.winwr 13#64 0x5A#8) ∧
  decode 0x00000000000020000000000400000020#128 = .ok (.pop 0x2000#64 4#32) ∧
  decode 0x00000000000000000000000800000023#128 = .ok (.advancer 8#32) ∧
  decode 0x00000000000000000000000000000008#128 = .ok .avail

/-- 30_encoding.md R100: byte `j` of a serialized descriptor is its bits `8j+7` to `8j`, and decoding those 16 bytes
is decoding the descriptor, leaving what follows them. -/
def Obligations.DescriptorBytesAreLittleEndian : Prop :=
  ∀ (d : Desc) (rest : List Byte),
    (descBytes d).length = 16 ∧ (∀ j, j < 16 → (descBytes d)[j]? = some (d.extractLsb' (8 * j) 8)) ∧
    decodeBytes (descBytes d ++ rest) =
      match decode d with
      | .ok i => .ok (i, rest)
      | .error e => .error e

/-- A step runs the decoded instruction: when a port's turn comes, no fault is recorded, and the descriptor in flight
there (P, C) or offered there (K) decodes to `i`, the step is `exec i` with the turn taken, the port active and K's
offer taken. -/
def Obligations.StepRunsDecodedInstruction : Prop :=
  ∀ (s : State) (p : Port) (d : Desc) (i : Instr) (ts : List Turn),
    s.fault = false → s.turns = .port p :: ts → pending p d s → decode d = .ok i → step s = exec i (atTurn p ts s)

/-- 30_encoding.md R93: a descriptor whose opcode is not assigned faults ILLEGAL_COMMAND on every port. -/
def Obligations.UnassignedOpcodeFaults : Prop :=
  ∀ (s : State) (p : Port) (d : Desc) (ts : List Turn),
    s.fault = false → s.turns = .port p :: ts → pending p d s → (descOpc d).toNat ∉ assignedOpcodes →
    step s = .next (withRecord 0x01#8 d (atTurn p ts s))

/-- 30_encoding.md R94: a descriptor with `RSV` not zero, or with a field not zero that its opcode does not use, faults
ILLEGAL_COMMAND on every port. -/
def Obligations.ReservedOrUnusedFieldFaults : Prop :=
  ∀ (s : State) (p : Port) (d : Desc) (ts : List Turn),
    s.fault = false → s.turns = .port p :: ts → pending p d s → (descRsv d ≠ 0#14 ∨ UnusedFieldNonzero d) →
    step s = .next (withRecord 0x01#8 d (atTurn p ts s))

/-- 30_encoding.md R96: SETHINT with a hint above 2 faults ILLEGAL_COMMAND, and no other value is refused: a descriptor
with an assigned opcode, zero `RSV` and zero unused fields decodes unless it is that. -/
def Obligations.OnlyHintValueIsRestricted : Prop :=
  (∀ (s : State) (p : Port) (d : Desc) (ts : List Turn),
    s.fault = false → s.turns = .port p :: ts → pending p d s → (descOpc d).toNat = 0x04 → 2 < (descImm d).toNat →
    step s = .next (withRecord 0x01#8 d (atTurn p ts s))) ∧
  (∀ d : Desc, (descOpc d).toNat ∈ assignedOpcodes → descRsv d = 0#14 → ¬ UnusedFieldNonzero d →
    ((descOpc d).toNat = 0x04 → (descImm d).toNat ≤ 2) → ∃ i, decode d = .ok i)

/-! ### Steps and faults -/

/-- 30_encoding.md R95: a command on a port that R92 does not list for its opcode faults PORT_VIOLATION, configured or
not (60_exceptions.md R234). -/
def Obligations.WrongPortFaults : Prop :=
  ∀ (i : Instr) (s : State), i.wellFormed = true → ¬ PortAllowed s.active (opcodeOf i).toNat →
    exec i s = .next (withRecord 0x02#8 (encode i) s)

/-- 10_state.md R22: while `CFG = 0` every command but RESIZE and SETHINT faults NOT_CONFIGURED (on a port that may
issue it); only reset clears `CFG`; only a RESIZE sets it, and a RESIZE that completes leaves it set. -/
def Obligations.ConfiguredFlagLife : Prop :=
  (∀ (i : Instr) (s : State), i.wellFormed = true → PortAllowed s.active (opcodeOf i).toNat → s.cfg = false →
    (opcodeOf i).toNat ≠ 0x01 → (opcodeOf i).toNat ≠ 0x04 → exec i s = .next (withRecord 0x03#8 (encode i) s)) ∧
  (∀ s t : State, step s = .next t → s.cfg = true → t.cfg = false → ∃ ts, s.turns = .reset :: ts) ∧
  (∀ s t : State, step s = .next t → s.cfg = false → t.cfg = true →
    ∃ ts d len b, s.turns = .port .K :: ts ∧ s.offersK.head? = some d ∧ decode d = .ok (.resize len b)) ∧
  (∀ (len : Word) (b : Byte) (s t : State), s.fault = false → exec (.resize len b) s = .next t → t.fault = false →
    t.cfg = true)

/-- 40_ring_control.md R120: RESIZE, CLEAR, FILLSIL and SETHINT fault QUIESCENCE_VIOLATION while P or C has a command
in flight; grants outstanding do not matter, and AVAIL and FREE on K do not need quiescence. -/
def Obligations.ReconfigurationNeedsQuiescence : Prop :=
  (∀ (i : Instr) (s : State), i.wellFormed = true → (opcodeOf i).toNat ∈ [0x01, 0x02, 0x03, 0x04] →
    s.active = .K → (s.cfg = true ∨ (opcodeOf i).toNat ∈ [0x01, 0x04]) → (s.busyP = true ∨ s.busyC = true) →
    exec i s = .next (withRecord 0x04#8 (encode i) s)) ∧
  (∀ (i : Instr) (s : State), i.wellFormed = true → (opcodeOf i).toNat ∈ [0x02, 0x03, 0x04, 0x08, 0x09] →
    s.active = .K → s.cfg = true → (s.busyP = false ∧ s.busyC = false ∨ (opcodeOf i).toNat ∈ [0x08, 0x09]) →
    ∃ t, exec i s = .next t ∧ t.fault = s.fault ∧ t.rokK = true)

/-- 60_exceptions.md R231 and R232: a command that faults has no other effect than the fault record, which names one of
the ten causes, its port and its descriptor. -/
def Obligations.FaultsArePrecise : Prop :=
  ∀ (i : Instr) (s t : State), s.fault = false → exec i s = .next t → t.fault = true →
    ∃ code : Byte, 1 ≤ code.toNat ∧ code.toNat ≤ 0x0A ∧ t = withRecord code (encode i) s

/-- 60_exceptions.md R234 items 1 to 4: the first generic check that fails is the one reported (ILLEGAL_COMMAND,
PORT_VIOLATION, NOT_CONFIGURED, QUIESCENCE_VIOLATION in that order), and a command that passes all four reports, if it
faults, one of the causes of items 5 and 6. -/
def Obligations.FirstFailingCheckIsReported : Prop :=
  ∀ (i : Instr) (s t : State), s.fault = false → exec i s = .next t → t.fault = true →
    (i.wellFormed = false → t.fcode = 0x01#8) ∧
    (i.wellFormed = true → ¬ PortAllowed s.active (opcodeOf i).toNat → t.fcode = 0x02#8) ∧
    (i.wellFormed = true → PortAllowed s.active (opcodeOf i).toNat → s.cfg = false →
      (opcodeOf i).toNat ∉ [0x01, 0x04] → t.fcode = 0x03#8) ∧
    (i.wellFormed = true → PortAllowed s.active (opcodeOf i).toNat →
      (s.cfg = true ∨ (opcodeOf i).toNat ∈ [0x01, 0x04]) → (opcodeOf i).toNat ≤ 0x04 →
      (s.busyP = true ∨ s.busyC = true) → t.fcode = 0x04#8) ∧
    (i.wellFormed = true → PortAllowed s.active (opcodeOf i).toNat →
      (s.cfg = true ∨ (opcodeOf i).toNat ∈ [0x01, 0x04]) →
      ((opcodeOf i).toNat ≤ 0x04 → s.busyP = false ∧ s.busyC = false) → 0x05 ≤ t.fcode.toNat ∧ t.fcode.toNat ≤ 0x0A)

/-- Every command, in every state, answers a next state: no command waits, and the machine gives none up
(60_exceptions.md R235, R244). -/
def Obligations.EveryCommandAnswers : Prop := ∀ (i : Instr) (s : State), ∃ t, exec i s = .next t

/-- 10_state.md R50: while `FAULT = 1` no step of any port is enabled. That the model then answers the fault `halted`,
to a port's turn and to an empty schedule, is its reading of that (log entry 6, DEDUCED). 60_exceptions.md R231: whatever
else happens, the fault record stays until reset. -/
def Obligations.HaltedUntilReset : Prop :=
  ∀ s : State, s.fault = true →
    (∀ p ts, s.turns = .port p :: ts → step s = .fault .halted) ∧
    (s.turns = [] → step s = .fault .halted) ∧
    (∀ t, step s = .next t → (∃ ts, s.turns = .reset :: ts) ∨
      (t.fault = true ∧ t.fcode = s.fcode ∧ t.fport = s.fport ∧ t.fdesc = s.fdesc))

/-- 10_state.md R42: ISSUE latches the descriptor, sets the busy flag and takes the other side's cursor, on P and on
C, and changes nothing else but the offer and the turn it uses up. -/
def Obligations.IssueLatchesOtherCursor : Prop :=
  (∀ (s : State) (d : Desc) (ds : List Desc) (ts : List Turn), s.fault = false → s.turns = .port .P :: ts →
    s.busyP = false → s.offersP = d :: ds →
    step s = .next { s with turns := ts, active := .P, offersP := ds, latchP := d, busyP := true, snapP := s.rd }) ∧
  (∀ (s : State) (d : Desc) (ds : List Desc) (ts : List Turn), s.fault = false → s.turns = .port .C :: ts →
    s.busyC = false → s.offersC = d :: ds →
    step s = .next { s with turns := ts, active := .C, offersC := ds, latchC := d, busyC := true, snapC := s.wr })

/-- A command in flight can always be completed (10_state.md R49, first sentence): its turn gives a next state, in which
it has ended, or has faulted and stays in flight (R43). -/
def Obligations.CompleteAlwaysEnabled : Prop :=
  (∀ (s : State) (ts : List Turn), s.fault = false → s.turns = .port .P :: ts → s.busyP = true →
    ∃ t, step s = .next t ∧ t.busyP = t.fault ∧ t.busyC = s.busyC ∧ t.turns = ts) ∧
  (∀ (s : State) (ts : List Turn), s.fault = false → s.turns = .port .C :: ts → s.busyC = true →
    ∃ t, step s = .next t ∧ t.busyC = t.fault ∧ t.busyP = s.busyP ∧ t.turns = ts)

/-- The model's choice for a port with nothing to do and for an empty schedule (log entry 4): the block waits
unchanged. -/
def Obligations.NothingOfferedNothingDone : Prop :=
  ∀ s : State, s.fault = false →
    (s.turns = [] → step s = .next s) ∧
    (∀ p ts, s.turns = .port p :: ts →
      (p = .P → s.busyP = false ∧ s.offersP = []) → (p = .C → s.busyC = false ∧ s.offersC = []) →
      (p = .K → s.offersK = []) → step s = .next { s with turns := ts, active := p })

/-- Host agents own host memory (10_state.md R41) but must leave a buffer in flight alone (70_reset_and_hazards.md
R277): a store outside every buffer in flight, or while the block is halted and completes nothing, changes that one
byte; any other store is refused. The refusal, the whole offered length as the buffer, and the halted block are the
model's reading (log entries 6 and 10, DEDUCED); that the store takes place at an address where `HostOK` is false too is
its choice (log entry 18, DESIGN CHOICE). -/
def Obligations.HostStoresOutsideBuffersInFlight : Prop :=
  ∀ (s : State) (a : Addr) (b : Byte) (ts : List Turn), s.turns = .hostStore a b :: ts → StoresInv s →
    (s.fault = true ∨ ¬ BufferInFlight s a →
      ∃ t, step s = .next t ∧ t = { s with turns := ts, hmem := t.hmem } ∧
        ∀ x, hostByte t x = if x = a.toNat then b else hostByte s x) ∧
    (s.fault = false → BufferInFlight s a → step s = .refused .hostBufferInUse)

/-! ### Cursors -/

/-- 10_state.md R29: one slot is always reserved. -/
def Obligations.FreePlusAvailIsCapacityMinusOne : Prop :=
  ∀ s : State, RingInv s → s.cfg = true →
    freeBytes s.cap s.wr s.rd + availBytes s.cap s.wr s.rd = s.cap.toNat - 1

/-- 10_state.md R24: `WR` changes only by a step of P, forward modulo `CAP` by no more than the free bytes, or by
RESIZE, CLEAR or reset. -/
def Obligations.WriteCursorMovesForward : Prop :=
  ∀ s t : State, Inv s → step s = .next t → t.wr ≠ s.wr →
    (∃ ts, s.turns = .reset :: ts) ∨
    (∃ ts n, s.turns = .port .P :: ts ∧ n ≤ freeBytes s.cap s.wr s.rd ∧
      t.wr.toNat = (s.wr.toNat + n) % s.cap.toNat) ∨
    (∃ ts d i, s.turns = .port .K :: ts ∧ s.offersK.head? = some d ∧ decode d = .ok i ∧
      (i = .clear ∨ ∃ len b, i = .resize len b))

/-- 10_state.md R25: `RD` changes only by a step of C, forward modulo `CAP` by no more than the available bytes, or by
RESIZE, CLEAR or reset. -/
def Obligations.ReadCursorMovesForward : Prop :=
  ∀ s t : State, Inv s → step s = .next t → t.rd ≠ s.rd →
    (∃ ts, s.turns = .reset :: ts) ∨
    (∃ ts n, s.turns = .port .C :: ts ∧ n ≤ availBytes s.cap s.wr s.rd ∧
      t.rd.toNat = (s.rd.toNat + n) % s.cap.toNat) ∨
    (∃ ts d i, s.turns = .port .K :: ts ∧ s.offersK.head? = some d ∧ decode d = .ok i ∧
      (i = .clear ∨ ∃ len b, i = .resize len b))

/-- 20_memory.md R72: what a command saw at ISSUE is never more than the ring allows at COMPLETE, and the difference is
how far the other cursor has moved since. -/
def Obligations.StalenessBound : Prop :=
  ∀ s : State, Inv s → s.cfg = true →
    (s.busyP = true →
      freeBytes s.cap s.wr s.rd = freeBytes s.cap s.wr s.snapP + availBytes s.cap s.rd s.snapP ∧
      freeBytes s.cap s.wr s.snapP ≤ freeBytes s.cap s.wr s.rd) ∧
    (s.busyC = true →
      availBytes s.cap s.wr s.rd = availBytes s.cap s.snapC s.rd + availBytes s.cap s.wr s.snapC ∧
      availBytes s.cap s.snapC s.rd ≤ availBytes s.cap s.wr s.rd)

/-- 20_memory.md R73: the bytes a P command in flight may write and the bytes a C command in flight may read are
disjoint. -/
def Obligations.PortsTouchDisjointBytes : Prop :=
  ∀ s : State, Inv s → s.cfg = true → s.busyP = true → s.busyC = true →
    ∀ i j, i < freeBytes s.cap s.wr s.snapP → j < availBytes s.cap s.snapC s.rd →
      (s.wr.toNat + i) % s.cap.toNat ≠ (s.rd.toNat + j) % s.cap.toNat

/-! ### Ring control -/

/-- 40_ring_control.md R121, RESIZE on a quiescent block: the capacity is the smallest power of two that is large
enough, the ring is all silence, the cursors and grants are zero, nothing else changes; a request of 0 or beyond
`CAP_MAX` faults BAD_CAPACITY. -/
def Obligations.ResizeReconfigures : Prop :=
  ∀ (len : Word) (b : Byte) (s : State), s.active = .K → s.busyP = false → s.busyC = false →
    (1 ≤ len.toNat ∧ len.toNat ≤ 2 ^ s.config.capMaxLog.val →
      ∃ t, exec (.resize len b) s = .next t ∧
        t = { s with
          cap := t.cap, cfg := true, ring := t.ring, wr := 0#32, rd := 0#32, silence := b, wgb := 0#32, wgl := 0#32,
          rgb := 0#32, rgl := 0#32, rvalK := 0#32, rokK := true } ∧
        (∃ j, t.cap.toNat = 2 ^ j ∧ len.toNat ≤ 2 ^ j ∧ ∀ m, len.toNat ≤ 2 ^ m → j ≤ m) ∧
        ∀ o, o < t.cap.toNat → ringByte t o = b) ∧
    (len.toNat = 0 ∨ 2 ^ s.config.capMaxLog.val < len.toNat →
      exec (.resize len b) s = .next (withRecord 0x05#8 (encode (.resize len b)) s))

/-- 40_ring_control.md R124, CLEAR on a configured, quiescent block: cursors, alignment state and grants to zero, the
storage and everything else kept. -/
def Obligations.ClearKeepsStorage : Prop :=
  ∀ s : State, s.active = .K → s.cfg = true → s.busyP = false → s.busyC = false →
    exec .clear s = .next { s with
      wr := 0#32, rd := 0#32, mode := .unknown, hint := none, conf := false, defcnt := 0#32, wgb := 0#32, wgl := 0#32,
      rgb := 0#32, rgl := 0#32, rvalK := 0#32, rokK := true }

/-- 40_ring_control.md R125, FILLSIL on a configured, quiescent block: every ring byte is the silence byte, the grants
are revoked, everything else is kept. -/
def Obligations.FillSilenceFillsRing : Prop :=
  ∀ s : State, s.active = .K → s.cfg = true → s.busyP = false → s.busyC = false →
    ∃ t, exec .fillsil s = .next t ∧
      t = { s with
        ring := t.ring, wgb := 0#32, wgl := 0#32, rgb := 0#32, rgl := 0#32, rvalK := 0#32, rokK := true } ∧
      ∀ o, o < s.cap.toNat → ringByte t o = s.silence

/-- 40_ring_control.md R122, AVAIL on a configured block: the count `n < CAP` that takes the live `RD` to the live `WR`,
in the issuing port's result registers; nothing else changes but the end of the command there. -/
def Obligations.AvailCountsLiveCursors : Prop :=
  ∀ s : State, RingInv s → s.cfg = true →
    ∃ n, n < s.cap.toNat ∧ (s.rd.toNat + n) % s.cap.toNat = s.wr.toNat ∧
      (s.active = .P → exec .avail s = .next { s with rvalP := BitVec.ofNat 32 n, rokP := true, busyP := false }) ∧
      (s.active = .C → exec .avail s = .next { s with rvalC := BitVec.ofNat 32 n, rokC := true, busyC := false }) ∧
      (s.active = .K → exec .avail s = .next { s with rvalK := BitVec.ofNat 32 n, rokK := true })

/-- 40_ring_control.md R123, FREE on a configured block: the count `n < CAP` that takes the live `WR` to the slot before
the live `RD`, in the issuing port's result registers; nothing else changes but the end of the command there. -/
def Obligations.FreeCountsLiveCursors : Prop :=
  ∀ s : State, RingInv s → s.cfg = true →
    ∃ n, n < s.cap.toNat ∧ (s.wr.toNat + n + 1) % s.cap.toNat = s.rd.toNat ∧
      (s.active = .P → exec .free s = .next { s with rvalP := BitVec.ofNat 32 n, rokP := true, busyP := false }) ∧
      (s.active = .C → exec .free s = .next { s with rvalC := BitVec.ofNat 32 n, rokC := true, busyC := false }) ∧
      (s.active = .K → exec .free s = .next { s with rvalK := BitVec.ofNat 32 n, rokK := true })

/-! ### Zero-copy regions -/

/-- 41_zero_copy.md R142, WREGION on P: a grant of exactly the bytes needed at `WR` if they fit before the buffer end
and before the read cursor P saw, else no grant and `(0, 0)`; nothing else changes. -/
def Obligations.WregionGrantsContiguousSpan : Prop :=
  ∀ (len : Word) (s : State), s.active = .P → s.cfg = true → RingInv s →
    (len.toNat ≤ freeBytes s.cap s.wr s.snapP ∧ s.wr.toNat + len.toNat ≤ s.cap.toNat →
      exec (.wregion len) s = .next { s with
        wgb := s.wr, wgl := len, rvalP := s.wr, rokP := true, busyP := false }) ∧
    (freeBytes s.cap s.wr s.snapP < len.toNat ∨ s.cap.toNat < s.wr.toNat + len.toNat →
      exec (.wregion len) s = .next { s with
        wgb := 0#32, wgl := 0#32, rvalP := 0#32, rokP := false, busyP := false })

/-- 41_zero_copy.md R143, WINWR on P: inside the write grant the ring byte at the offset is written and no other,
outside it REGION_VIOLATION. -/
def Obligations.WinwrWritesInsideGrant : Prop :=
  ∀ (off : Addr) (b : Byte) (s : State), s.active = .P → s.cfg = true → StoresInv s →
    (s.wgb.toNat ≤ off.toNat ∧ off.toNat < s.wgb.toNat + s.wgl.toNat →
      ∃ t, exec (.winwr off b) s = .next t ∧
        t = { s with ring := t.ring, rvalP := 0#32, rokP := true, busyP := false } ∧
        ∀ o, ringByte t o = if o = off.toNat then b else ringByte s o) ∧
    (off.toNat < s.wgb.toNat ∨ s.wgb.toNat + s.wgl.toNat ≤ off.toNat →
      exec (.winwr off b) s = .next (withRecord 0x07#8 (encode (.winwr off b)) s))

/-- 41_zero_copy.md R144, COMMITW on P: `WR` moves by `n` modulo `CAP` and the grant ends, or COMMIT_OVERRUN beyond
the granted length; nothing else changes. -/
def Obligations.CommitwAdvancesWriteCursor : Prop :=
  ∀ (n : Word) (s : State), s.active = .P → s.cfg = true → RingInv s →
    (n.toNat ≤ s.wgl.toNat →
      ∃ t, exec (.commitw n) s = .next t ∧
        t = { s with wr := t.wr, wgb := 0#32, wgl := 0#32, rvalP := 0#32, rokP := true, busyP := false } ∧
        t.wr.toNat = (s.wr.toNat + n.toNat) % s.cap.toNat) ∧
    (s.wgl.toNat < n.toNat → exec (.commitw n) s = .next (withRecord 0x08#8 (encode (.commitw n)) s))

/-- 41_zero_copy.md R145, RREGION on C: a grant of exactly the bytes needed at `RD` if that many are available to C
without wrapping, else no grant and `(0, 0)`; nothing else changes. -/
def Obligations.RregionGrantsContiguousSpan : Prop :=
  ∀ (len : Word) (s : State), s.active = .C → s.cfg = true → RingInv s →
    (len.toNat ≤ availBytes s.cap s.snapC s.rd ∧ s.rd.toNat + len.toNat ≤ s.cap.toNat →
      exec (.rregion len) s = .next { s with
        rgb := s.rd, rgl := len, rvalC := s.rd, rokC := true, busyC := false }) ∧
    (availBytes s.cap s.snapC s.rd < len.toNat ∨ s.cap.toNat < s.rd.toNat + len.toNat →
      exec (.rregion len) s = .next { s with
        rgb := 0#32, rgl := 0#32, rvalC := 0#32, rokC := false, busyC := false })

/-- 41_zero_copy.md R146, WINRD on C: inside the read grant the ring byte at the offset, zero-extended, outside it
REGION_VIOLATION; nothing else changes. -/
def Obligations.WinrdReadsInsideGrant : Prop :=
  ∀ (off : Addr) (s : State), s.active = .C → s.cfg = true →
    (s.rgb.toNat ≤ off.toNat ∧ off.toNat < s.rgb.toNat + s.rgl.toNat →
      ∃ t, exec (.winrd off) s = .next t ∧ t = { s with rvalC := t.rvalC, rokC := true, busyC := false } ∧
        t.rvalC.toNat = (ringByte s off.toNat).toNat) ∧
    (off.toNat < s.rgb.toNat ∨ s.rgb.toNat + s.rgl.toNat ≤ off.toNat →
      exec (.winrd off) s = .next (withRecord 0x07#8 (encode (.winrd off)) s))

/-- 41_zero_copy.md R147, ADVANCER on C: `RD` moves by `n` modulo `CAP` and the grant ends, or ADVANCE_OVERRUN beyond
the granted length; nothing else changes. -/
def Obligations.AdvancerAdvancesReadCursor : Prop :=
  ∀ (n : Word) (s : State), s.active = .C → s.cfg = true → RingInv s →
    (n.toNat ≤ s.rgl.toNat →
      ∃ t, exec (.advancer n) s = .next t ∧
        t = { s with rd := t.rd, rgb := 0#32, rgl := 0#32, rvalC := 0#32, rokC := true, busyC := false } ∧
        t.rd.toNat = (s.rd.toNat + n.toNat) % s.cap.toNat) ∧
    (s.rgl.toNat < n.toNat → exec (.advancer n) s = .next (withRecord 0x09#8 (encode (.advancer n)) s))

/-- 41_zero_copy.md R148: which commands that complete revoke a grant, and that no other command changes one; reset
revokes both. -/
def Obligations.GrantRevocation : Prop :=
  (∀ (i : Instr) (s t : State), s.fault = false → exec i s = .next t → t.fault = false →
    ((opcodeOf i).toNat ∈ [0x01, 0x02, 0x03, 0x10, 0x11, 0x12, 0x13, 0x16] → t.wgb = 0#32 ∧ t.wgl = 0#32) ∧
    ((opcodeOf i).toNat = 0x14 → (t.wgb = 0#32 ∧ t.wgl = 0#32) ∨ (t.rokP = true ∧ t.wgb = s.wr ∧ i = .wregion t.wgl)) ∧
    ((opcodeOf i).toNat ∈ [0x04, 0x08, 0x09, 0x15, 0x20, 0x21, 0x22, 0x23] → t.wgb = s.wgb ∧ t.wgl = s.wgl) ∧
    ((opcodeOf i).toNat ∈ [0x01, 0x02, 0x03, 0x20, 0x23] → t.rgb = 0#32 ∧ t.rgl = 0#32) ∧
    ((opcodeOf i).toNat = 0x21 → (t.rgb = 0#32 ∧ t.rgl = 0#32) ∨ (t.rokC = true ∧ t.rgb = s.rd ∧ i = .rregion t.rgl)) ∧
    ((opcodeOf i).toNat ∈ [0x04, 0x08, 0x09, 0x10, 0x11, 0x12, 0x13, 0x14, 0x15, 0x16, 0x22] →
      t.rgb = s.rgb ∧ t.rgl = s.rgl)) ∧
  (∀ (s t : State) (ts : List Turn), s.turns = .reset :: ts → step s = .next t →
    t.wgb = 0#32 ∧ t.wgl = 0#32 ∧ t.rgb = 0#32 ∧ t.rgl = 0#32)

/-! ### Raw transfers -/

/-- 42_raw_transfer.md R170 and R172, PUSH on P: `n` bytes, the request clamped to the free space P saw, go from host
memory to the ring offsets from `WR` on modulo `CAP`, `WR` moves by `n`, the write grant ends, `n` is the result and
nothing else changes; an inaccessible byte among them faults HOST_ACCESS_FAULT. -/
def Obligations.PushCopiesClampedBytes : Prop :=
  ∀ (addr : Addr) (len : Word) (s : State), s.active = .P → s.cfg = true → RingInv s → StoresInv s →
    ((∀ i, i < min len.toNat (freeBytes s.cap s.wr s.snapP) → hostOK s.config (addr.toNat + i) = true) →
      ∃ t n, n = min len.toNat (freeBytes s.cap s.wr s.snapP) ∧ exec (.push addr len) s = .next t ∧
        t = { s with
          ring := t.ring, wr := t.wr, wgb := 0#32, wgl := 0#32, rvalP := t.rvalP, rokP := true, busyP := false } ∧
        t.rvalP.toNat = n ∧ t.wr.toNat = (s.wr.toNat + n) % s.cap.toNat ∧
        (∀ i, i < n → ringByte t ((s.wr.toNat + i) % s.cap.toNat) = hostByte s (addr.toNat + i)) ∧
        ∀ o, o < s.cap.toNat → (∀ i, i < n → o ≠ (s.wr.toNat + i) % s.cap.toNat) → ringByte t o = ringByte s o) ∧
    ((∃ i, i < min len.toNat (freeBytes s.cap s.wr s.snapP) ∧ hostOK s.config (addr.toNat + i) = false) →
      exec (.push addr len) s = .next (withRecord 0x0A#8 (encode (.push addr len)) s))

/-- 42_raw_transfer.md R171 and R173, POP on C: `n` bytes, the request clamped to the bytes C saw, go from the ring
offsets from `RD` on modulo `CAP` to host memory, `RD` moves by `n`, the read grant ends, `n` is the result and nothing
else changes; an inaccessible byte among them faults HOST_ACCESS_FAULT. -/
def Obligations.PopCopiesClampedBytes : Prop :=
  ∀ (addr : Addr) (len : Word) (s : State), s.active = .C → s.cfg = true → RingInv s → StoresInv s →
    ((∀ i, i < min len.toNat (availBytes s.cap s.snapC s.rd) → hostOK s.config (addr.toNat + i) = true) →
      ∃ t n, n = min len.toNat (availBytes s.cap s.snapC s.rd) ∧ exec (.pop addr len) s = .next t ∧
        t = { s with
          hmem := t.hmem, rd := t.rd, rgb := 0#32, rgl := 0#32, rvalC := t.rvalC, rokC := true, busyC := false } ∧
        t.rvalC.toNat = n ∧ t.rd.toNat = (s.rd.toNat + n) % s.cap.toNat ∧
        (∀ i, i < n → hostByte t (addr.toNat + i) = ringByte s ((s.rd.toNat + i) % s.cap.toNat)) ∧
        ∀ a, a < addr.toNat ∨ addr.toNat + n ≤ a → hostByte t a = hostByte s a) ∧
    ((∃ i, i < min len.toNat (availBytes s.cap s.snapC s.rd) ∧ hostOK s.config (addr.toNat + i) = false) →
      exec (.pop addr len) s = .next (withRecord 0x0A#8 (encode (.pop addr len)) s))

/-- 20_memory.md R63, "address arithmetic does not wrap": a PUSH or POP whose clamped buffer passes the end of host
memory faults HOST_ACCESS_FAULT and moves nothing, and one of no bytes faults nowhere. -/
def Obligations.HostAddressesDoNotWrap : Prop :=
  ∀ (addr : Addr) (len : Word) (s : State), s.cfg = true →
    (s.active = .P → 2 ^ 64 < addr.toNat + min len.toNat (freeBytes s.cap s.wr s.snapP) →
      exec (.push addr len) s = .next (withRecord 0x0A#8 (encode (.push addr len)) s)) ∧
    (s.active = .C → 2 ^ 64 < addr.toNat + min len.toNat (availBytes s.cap s.snapC s.rd) →
      exec (.pop addr len) s = .next (withRecord 0x0A#8 (encode (.pop addr len)) s)) ∧
    (s.active = .P → s.fault = false → min len.toNat (freeBytes s.cap s.wr s.snapP) = 0 →
      ∃ t, exec (.push addr len) s = .next t ∧ t.fault = false ∧ t.rvalP = 0#32) ∧
    (s.active = .C → s.fault = false → min len.toNat (availBytes s.cap s.snapC s.rd) = 0 →
      ∃ t, exec (.pop addr len) s = .next t ∧ t.fault = false ∧ t.rvalC = 0#32)

/-- Under the invariant, a PUSH that completes puts the bytes it accepted at the end of the queue the consumer sees
(42_raw_transfer.md R172, 10_state.md R28, 20_memory.md R72). -/
def Obligations.PushAppendsToQueue : Prop :=
  ∀ (addr : Addr) (len : Word) (s t : State), Inv s → s.busyP = true → s.active = .P → s.fault = false →
    exec (.push addr len) s = .next t → t.fault = false →
    contents t = contents s ++ memRead s addr.toNat t.rvalP.toNat

/-- Under the invariant, a POP that completes delivers to host memory the oldest bytes of the queue and removes them
(42_raw_transfer.md R173, 10_state.md R28, 20_memory.md R72). -/
def Obligations.PopTakesFromQueue : Prop :=
  ∀ (addr : Addr) (len : Word) (s t : State), Inv s → s.busyC = true → s.active = .C → s.fault = false →
    exec (.pop addr len) s = .next t → t.fault = false →
    memRead t addr.toNat t.rvalC.toNat = (contents s).take t.rvalC.toNat ∧
      contents t = (contents s).drop t.rvalC.toNat

/-- Every step refines a byte queue, configured or not: a step of P only adds bytes at its end, a step of C only
removes bytes from its front, a step of K leaves it alone, empties it, or makes every byte the silence byte, a host store
leaves it alone, and reset empties it; previously written bytes that are not yet read are never corrupted (20_memory.md
R73). That an empty schedule leaves it alone is the model's choice (log entry 4, DESIGN CHOICE). -/
def Obligations.StepRefinesByteQueue : Prop :=
  ∀ s t : State, Inv s → step s = .next t →
    (∀ ts, s.turns = .port .P :: ts → ∃ added, contents t = contents s ++ added) ∧
    (∀ ts, s.turns = .port .C :: ts → ∃ n, contents t = (contents s).drop n) ∧
    (∀ ts, s.turns = .port .K :: ts →
      contents t = contents s ∨ contents t = [] ∨ contents t = (contents s).map fun _ => s.silence) ∧
    (∀ a b ts, s.turns = .hostStore a b :: ts → contents t = contents s) ∧
    (∀ ts, s.turns = .reset :: ts → contents t = []) ∧
    (s.turns = [] → contents t = contents s)

/-- 42_raw_transfer.md R175, from an empty ring: PUSH commands that each accept their whole chunk, then POP commands of
the same lengths that each return their full length, deliver the pushed bytes in order, whatever the cursors were. -/
def Obligations.PushPopRoundTrip : Prop :=
  ∀ (s t u : State) (sources dests : List (Addr × Word)) (pushed popped : List Byte),
    Inv s → s.cfg = true → s.fault = false → s.wr = s.rd →
    transferAll pushWhole sources s = some (pushed, t) → transferAll popWhole dests t = some (popped, u) →
    dests.map Prod.snd = sources.map Prod.snd → popped = pushed

/-! ### Format pushes and the alignment state -/

/-- 43_format_push.md R193, SETHINT on a quiescent block, configured or not: the hint and the mode from the code, not
confirmed, the count zero; nothing else changes. -/
def Obligations.SethintRearmsDetection : Prop :=
  ∀ (h : Byte) (s : State), s.active = .K → s.busyP = false → s.busyC = false →
    (h = 0#8 → exec (.sethint h) s = .next { s with
      hint := none, mode := .unknown, conf := false, defcnt := 0#32, rvalK := 0#32, rokK := true }) ∧
    (h = 1#8 → exec (.sethint h) s = .next { s with
      hint := some .lsb, mode := .lsb, conf := false, defcnt := 0#32, rvalK := 0#32, rokK := true }) ∧
    (h = 2#8 → exec (.sethint h) s = .next { s with
      hint := some .msb, mode := .msb, conf := false, defcnt := 0#32, rvalK := 0#32, rokK := true }) ∧
    (2 < h.toNat → exec (.sethint h) s = .next (withRecord 0x01#8 (encode (.sethint h)) s))

/-- 43_format_push.md R194, R195 and R196: what an accessible PUSH24 that consumes `k` containers does to the alignment
state. With `CONF = 1` or `k = 0`, nothing; else the window of its first `min(32, k)` containers decides. -/
def Obligations.Push24DetectsAlignment : Prop :=
  ∀ (addr : Addr) (len : Word) (s : State) (k w : Nat), s.active = .P → s.cfg = true → RingInv s → AlignInv s →
    k = min (len.toNat / 4) (min ((s.config.scratchLast + 1) / 3) (freeBytes s.cap s.wr s.snapP / 3)) →
    w = min 32 k → (∀ i, i < 4 * k → hostOK s.config (addr.toNat + i) = true) →
    ∃ t, exec (.push24 addr len) s = .next t ∧ t.hint = s.hint ∧
      (s.conf = true ∨ k = 0 → t.mode = s.mode ∧ t.conf = s.conf ∧ t.defcnt = s.defcnt) ∧
      (s.conf = false → 0 < k →
        ((∀ j, j < w → hostByte s (addr.toNat + 4 * j) = 0#8) → (∀ j, j < w → hostByte s (addr.toNat + 4 * j + 3) = 0#8) →
          t.defcnt.toNat = s.defcnt.toNat + k ∧
          (s.defcnt.toNat + k ≤ s.config.deferThreshold.val → t.mode = .deferred ∧ t.conf = false) ∧
          (s.config.deferThreshold.val < s.defcnt.toNat + k →
            t.conf = true ∧ (s.hint = some .msb → t.mode = .msb) ∧ (s.hint ≠ some .msb → t.mode = .lsb))) ∧
        ((∃ j, j < w ∧ hostByte s (addr.toNat + 4 * j) ≠ 0#8) → (∀ j, j < w → hostByte s (addr.toNat + 4 * j + 3) = 0#8) →
          t.mode = .lsb ∧ t.conf = true ∧ t.defcnt = s.defcnt) ∧
        ((∀ j, j < w → hostByte s (addr.toNat + 4 * j) = 0#8) → (∃ j, j < w ∧ hostByte s (addr.toNat + 4 * j + 3) ≠ 0#8) →
          t.mode = .msb ∧ t.conf = true ∧ t.defcnt = s.defcnt) ∧
        ((∃ j, j < w ∧ hostByte s (addr.toNat + 4 * j) ≠ 0#8) → (∃ j, j < w ∧ hostByte s (addr.toNat + 4 * j + 3) ≠ 0#8) →
          t.mode = .lsb ∧ t.conf = true ∧ t.defcnt = s.defcnt))

/-- 43_format_push.md R197, R198 and the rest of R199, PUSH24 on P: `3k` bytes go to the ring, of each container its
bytes 0 to 2, or 1 to 3 in the conversion mode MsbAligned; `4k` is the result, the write grant ends, and nothing else
changes but scratch and the alignment state; an inaccessible byte faults with the alignment state unchanged. -/
def Obligations.Push24PushesRepackedSamples : Prop :=
  ∀ (addr : Addr) (len : Word) (s : State) (k : Nat), s.active = .P → s.cfg = true → RingInv s → StoresInv s →
    k = min (len.toNat / 4) (min ((s.config.scratchLast + 1) / 3) (freeBytes s.cap s.wr s.snapP / 3)) →
    ((∀ i, i < 4 * k → hostOK s.config (addr.toNat + i) = true) →
      ∃ t skip, exec (.push24 addr len) s = .next t ∧
        t = { s with
          ring := t.ring, wr := t.wr, scratch := t.scratch, mode := t.mode, conf := t.conf, defcnt := t.defcnt,
          wgb := 0#32, wgl := 0#32, rvalP := t.rvalP, rokP := true, busyP := false } ∧
        t.rvalP.toNat = 4 * k ∧ t.wr.toNat = (s.wr.toNat + 3 * k) % s.cap.toNat ∧
        (skip = if t.mode = .msb ∨ (t.mode ≠ .lsb ∧ s.hint = some .msb) then 1 else 0) ∧
        (∀ j b, j < k → b < 3 →
          ringByte t ((s.wr.toNat + 3 * j + b) % s.cap.toNat) = hostByte s (addr.toNat + 4 * j + b + skip)) ∧
        ∀ o, o < s.cap.toNat → (∀ i, i < 3 * k → o ≠ (s.wr.toNat + i) % s.cap.toNat) → ringByte t o = ringByte s o) ∧
    ((∃ i, i < 4 * k ∧ hostOK s.config (addr.toNat + i) = false) →
      exec (.push24 addr len) s = .next (withRecord 0x0A#8 (encode (.push24 addr len)) s))

/-- 43_format_push.md R200 and R201, PUSH16TO32 on P: of each 2-byte sample the ring gets two zero bytes and then its
two bytes in order; `2k` is the result, the write grant ends, and nothing else changes but scratch; an inaccessible
byte faults HOST_ACCESS_FAULT. -/
def Obligations.Push16To32PushesWidenedSamples : Prop :=
  ∀ (addr : Addr) (len : Word) (s : State) (k : Nat), s.active = .P → s.cfg = true → RingInv s → StoresInv s →
    k = min (len.toNat / 2) (min ((s.config.scratchLast + 1) / 4) (freeBytes s.cap s.wr s.snapP / 4)) →
    ((∀ i, i < 2 * k → hostOK s.config (addr.toNat + i) = true) →
      ∃ t, exec (.push16to32 addr len) s = .next t ∧
        t = { s with
          ring := t.ring, wr := t.wr, scratch := t.scratch, wgb := 0#32, wgl := 0#32, rvalP := t.rvalP, rokP := true,
          busyP := false } ∧
        t.rvalP.toNat = 2 * k ∧ t.wr.toNat = (s.wr.toNat + 4 * k) % s.cap.toNat ∧
        (∀ j b, j < k → b < 2 →
          ringByte t ((s.wr.toNat + 4 * j + b) % s.cap.toNat) = 0#8 ∧
          ringByte t ((s.wr.toNat + 4 * j + 2 + b) % s.cap.toNat) = hostByte s (addr.toNat + 2 * j + b)) ∧
        ∀ o, o < s.cap.toNat → (∀ i, i < 4 * k → o ≠ (s.wr.toNat + i) % s.cap.toNat) → ringByte t o = ringByte s o) ∧
    ((∃ i, i < 2 * k ∧ hostOK s.config (addr.toNat + i) = false) →
      exec (.push16to32 addr len) s = .next (withRecord 0x0A#8 (encode (.push16to32 addr len)) s))

/-- 43_format_push.md R203 and R204, PUSHDSD on P: byte `b` of frame `g` of channel `c` goes to the ring place
`4(gC + c) + b`, taken from the other end of the frame if BS, its bits reversed if BR; `4Ck` is the result, the write
grant ends, and nothing else changes but scratch; no channel or unequal blocks fault DSD_GEOMETRY, an inaccessible byte
HOST_ACCESS_FAULT. -/
def Obligations.PushdsdPushesInterleavedFrames : Prop :=
  ∀ (addr : Addr) (len : Word) (channels : Byte) (br bs : Bool) (s : State) (c blk k : Nat),
    s.active = .P → s.cfg = true → RingInv s → StoresInv s → c = channels.toNat → blk = len.toNat / c →
    k = min (blk / 4) (min ((s.config.scratchLast + 1) / (4 * c)) (freeBytes s.cap s.wr s.snapP / (4 * c))) →
    (c ≠ 0 → len.toNat % c = 0 →
      (∀ x i, x < c → i < 4 * k → hostOK s.config (addr.toNat + x * blk + i) = true) →
      ∃ t, exec (.pushdsd addr len channels br bs) s = .next t ∧
        t = { s with
          ring := t.ring, wr := t.wr, scratch := t.scratch, wgb := 0#32, wgl := 0#32, rvalP := t.rvalP, rokP := true,
          busyP := false } ∧
        t.rvalP.toNat = 4 * c * k ∧ t.wr.toNat = (s.wr.toNat + 4 * c * k) % s.cap.toNat ∧
        (∀ g x b, g < k → x < c → b < 4 →
          ringByte t ((s.wr.toNat + (4 * (g * c + x) + b)) % s.cap.toNat) =
            let source := hostByte s (addr.toNat + x * blk + 4 * g + if bs then 3 - b else b)
            if br then rev8 source else source) ∧
        ∀ o, o < s.cap.toNat → (∀ i, i < 4 * c * k → o ≠ (s.wr.toNat + i) % s.cap.toNat) →
          ringByte t o = ringByte s o) ∧
    (c ≠ 0 → len.toNat % c = 0 →
      (∃ x i, x < c ∧ i < 4 * k ∧ hostOK s.config (addr.toNat + x * blk + i) = false) →
      exec (.pushdsd addr len channels br bs) s =
        .next (withRecord 0x0A#8 (encode (.pushdsd addr len channels br bs)) s)) ∧
    (c = 0 ∨ len.toNat % c ≠ 0 →
      exec (.pushdsd addr len channels br bs) s =
        .next (withRecord 0x06#8 (encode (.pushdsd addr len channels br bs)) s))

/-- 43_format_push.md R202: bit `i` of a reversed byte is bit `7 - i` of the byte, so reversing twice changes
nothing. -/
def Obligations.BitReversalMirrorsByte : Prop :=
  ∀ b : Byte, (∀ i, i < 8 → (rev8 b).getLsbD i = b.getLsbD (7 - i)) ∧ rev8 (rev8 b) = b ∧
    rev8 0x01#8 = 0x80#8 ∧ rev8 0xAA#8 = 0x55#8 ∧ rev8 0x0F#8 = 0xF0#8

/-- 10_state.md R30, R31 and R32: the mode, its confirmation and the count change only by PUSH24, SETHINT and CLEAR, the
hint only by SETHINT and CLEAR; a confirmed mode stays until CLEAR or a new hint. -/
def Obligations.AlignmentStateOwners : Prop :=
  ∀ (i : Instr) (s t : State), exec i s = .next t →
    ((opcodeOf i).toNat ∉ [0x02, 0x04, 0x11] → t.mode = s.mode ∧ t.conf = s.conf ∧ t.defcnt = s.defcnt) ∧
    ((opcodeOf i).toNat ∉ [0x02, 0x04] → t.hint = s.hint) ∧
    (s.conf = true → (opcodeOf i).toNat ∉ [0x02, 0x04] → t.mode = s.mode ∧ t.conf = true)

/-! ### Whole-machine frames -/

/-- 10_state.md R41: the block writes host memory only in POP, and only the bytes of its destination buffer. -/
def Obligations.OnlyPopWritesHostMemory : Prop :=
  ∀ (i : Instr) (s t : State), StoresInv s → exec i s = .next t → t.hmem ≠ s.hmem →
    ∃ addr len, i = .pop addr len ∧
      ∀ a, a < addr.toNat ∨ addr.toNat + len.toNat ≤ a → hostByte t a = hostByte s a

/-- 10_state.md R34: a command that completes writes both result registers of its own port (what they held before
makes no difference to the state after), writes no other port's, and ends only its own command in flight; one that
faults writes none of them and ends nothing (60_exceptions.md R231). -/
def Obligations.CommandsWriteOwnPortOnly : Prop :=
  ∀ (i : Instr) (s t : State), exec i s = .next t →
    (s.active ≠ .P → t.rvalP = s.rvalP ∧ t.rokP = s.rokP ∧ t.busyP = s.busyP) ∧
    (s.active ≠ .C → t.rvalC = s.rvalC ∧ t.rokC = s.rokC ∧ t.busyC = s.busyC) ∧
    (s.active ≠ .K → t.rvalK = s.rvalK ∧ t.rokK = s.rokK) ∧
    t.latchP = s.latchP ∧ t.latchC = s.latchC ∧ t.snapP = s.snapP ∧ t.snapC = s.snapC ∧
    (s.fault = false → t.fault = false →
      (s.active = .P → t.busyP = false ∧ ∀ v ok, exec i { s with rvalP := v, rokP := ok } = .next t) ∧
      (s.active = .C → t.busyC = false ∧ ∀ v ok, exec i { s with rvalC := v, rokC := ok } = .next t) ∧
      (s.active = .K → ∀ v ok, exec i { s with rvalK := v, rokK := ok } = .next t)) ∧
    (s.fault = false → t.fault = true →
      t.rvalP = s.rvalP ∧ t.rokP = s.rokP ∧ t.busyP = s.busyP ∧ t.rvalC = s.rvalC ∧ t.rokC = s.rokC ∧
        t.busyC = s.busyC ∧ t.rvalK = s.rvalK ∧ t.rokK = s.rokK)

/-- 10_state.md R46: no command changes which descriptor comes next, on any port, nor the schedule; and no step changes
the parameters (00_scope.md R6). -/
def Obligations.CommandsLeaveAgentsAlone : Prop :=
  (∀ (i : Instr) (s t : State), exec i s = .next t →
    t.offersP = s.offersP ∧ t.offersC = s.offersC ∧ t.offersK = s.offersK ∧ t.turns = s.turns ∧ t.active = s.active) ∧
  (∀ s t : State, step s = .next t → t.config = s.config)
end

