-- ==== Sys2Proof/Laws/Command.lean ====
section
/-! SUPPORT. What running a command can do: the fault of a generic check, the fault of its own check, or its effects
and its result; and when each happens. -/

namespace Sys2Proof.Machine

/-- A command always takes a next state. -/
theorem runCommand_next (i : Instr) (body : State → Except FaultCode Reply) (s : State) :
    ∃ t, runCommand i body s = .next t := by
  unfold runCommand
  split
  · exact ⟨_, rfl⟩
  · split <;> exact ⟨_, rfl⟩

/-- Everything a command can do. -/
theorem runCommand_cases (i : Instr) (body : State → Except FaultCode Reply) (s t : State)
    (h : runCommand i body s = .next t) :
    (∃ c, genericFault i s = some c ∧ t = raiseFault c (encode i) s) ∨
      (∃ c, genericFault i s = none ∧ body s = .error c ∧ t = raiseFault c (encode i) s) ∨
      (∃ r, genericFault i s = none ∧ body s = .ok r ∧ t = finish r.val r.ok r.state) := by
  unfold runCommand at h
  split at h
  · rename_i c hc
    exact Or.inl ⟨c, hc, by cases h; rfl⟩
  · rename_i hg
    split at h
    · rename_i c hb
      exact Or.inr (Or.inl ⟨c, hg, hb, by cases h; rfl⟩)
    · rename_i r hb
      exact Or.inr (Or.inr ⟨r, hg, hb, by cases h; rfl⟩)

theorem runCommand_generic (i : Instr) (body : State → Except FaultCode Reply) (s : State) (c : FaultCode)
    (h : genericFault i s = some c) : runCommand i body s = .next (raiseFault c (encode i) s) := by
  simp [runCommand, h]

theorem runCommand_error (i : Instr) (body : State → Except FaultCode Reply) (s : State) (c : FaultCode)
    (h : genericFault i s = none) (hb : body s = .error c) :
    runCommand i body s = .next (raiseFault c (encode i) s) := by
  simp [runCommand, h, hb]

theorem runCommand_ok (i : Instr) (body : State → Except FaultCode Reply) (s : State) (r : Reply)
    (h : genericFault i s = none) (hb : body s = .ok r) :
    runCommand i body s = .next (finish r.val r.ok r.state) := by
  simp [runCommand, h, hb]

/-- When no generic check fails (60_exceptions.md R234 items 1 to 4). -/
theorem genericFault_eq_none (i : Instr) (s : State) :
    genericFault i s = none ↔
      i.wellFormed = true ∧ mayIssue s.active i = true ∧ (needsConfig i = true → s.cfg = true) ∧
        (needsQuiescence i = true → s.busyP = false ∧ s.busyC = false) := by
  unfold genericFault
  cases i.wellFormed <;> cases mayIssue s.active i <;> cases needsConfig i <;> cases needsQuiescence i <;>
    cases s.cfg <;> cases s.busyP <;> cases s.busyC <;> simp

/-! ### When each body's own check fails, and what it answers otherwise -/

theorem resizeBody_error (len : Word) (b : Byte) (s : State)
    (h : len.toNat = 0 ∨ capMax s.config < roundCapacity len.toNat) :
    resizeBody len b s = .error .badCapacity := by
  unfold resizeBody
  split
  · rfl
  · rcases h with h | h
    · contradiction
    · rw [if_pos h]

theorem winwrBody_error (off : Addr) (b : Byte) (s : State) (h : inGrant s.wgb s.wgl off = false) :
    winwrBody off b s = .error .regionViolation := by
  simp [winwrBody, h]

theorem winrdBody_error (off : Addr) (s : State) (h : inGrant s.rgb s.rgl off = false) :
    winrdBody off s = .error .regionViolation := by
  simp [winrdBody, h]

theorem commitwBody_error (n : Word) (s : State) (h : s.wgl.toNat < n.toNat) :
    commitwBody n s = .error .commitOverrun := by
  simp [commitwBody, h]

theorem advancerBody_error (n : Word) (s : State) (h : s.rgl.toNat < n.toNat) :
    advancerBody n s = .error .advanceOverrun := by
  simp [advancerBody, h]

/-- When an offset lies in a grant (41_zero_copy.md R143, R146). -/
theorem inGrant_iff (base len : Word) (off : Addr) :
    inGrant base len off = true ↔ base.toNat ≤ off.toNat ∧ off.toNat < base.toNat + len.toNat := by
  unfold inGrant
  constructor
  · intro h
    simp at h
    omega
  · intro h
    have : len ≠ 0#32 := by
      rintro rfl
      simp at h
      omega
    simp [h, this]

/-- When the block may access `n` host bytes (20_memory.md R63). -/
theorem hostRangeOK_iff (c : Config) (a n : Nat) :
    hostRangeOK c a n = true ↔ ∀ i, i < n → hostOK c (a + i) = true := by
  simp [hostRangeOK]

/-- An accessible range lies inside the host address space. -/
theorem hostRangeOK_size (c : Config) (a n : Nat) (h : hostRangeOK c a n = true) (hn : 0 < n) : a + n ≤ hostSize := by
  have := (hostRangeOK_iff c a n).1 h (n - 1) (by omega)
  simp [hostOK] at this
  omega

/-- When the block may access the bytes of the first `k` frames of every channel (43_format_push.md R204). -/
theorem planarOK_iff (s : State) (a blk channels k : Nat) :
    planarOK s a blk channels k = true ↔
      ∀ c, c < channels → ∀ i, i < 4 * k → hostOK s.config (a + c * blk + i) = true := by
  simp [planarOK, planarAddr]

/-- Whether byte `b` of each of the first `w` containers is zero (43_format_push.md R195). -/
theorem byteAlwaysZero_iff (s : State) (a w b : Nat) :
    byteAlwaysZero s a w b = true ↔ ∀ j, j < w → hostByte s (a + 4 * j + b) = 0x00#8 := by
  simp [byteAlwaysZero]

/-! ### The lengths of what the format pushes stage -/

theorem flatMap_length_const (l : List Nat) (f : Nat → List Byte) (n : Nat) (h : ∀ x, (f x).length = n) :
    (l.flatMap f).length = n * l.length := by
  induction l with
  | nil => simp
  | cons x xs ih => rw [List.flatMap_cons, List.length_append, ih, h, List.length_cons, Nat.mul_succ, Nat.add_comm]

@[simp] theorem length_staged24 (s : State) (side : SampleSide) (a k : Nat) : (staged24 s side a k).length = 3 * k := by
  rw [staged24, flatMap_length_const _ _ 3 fun x => by cases side <;> rfl, List.length_range]

@[simp] theorem length_staged16 (s : State) (a k : Nat) : (staged16 s a k).length = 4 * k := by
  rw [staged16, flatMap_length_const _ _ 4 fun x => rfl, List.length_range]

@[simp] theorem length_dsdFrame (s : State) (a blk : Nat) (br bs : Bool) (c g : Nat) :
    (dsdFrame s a blk br bs c g).length = 4 := by
  cases br <;> cases bs <;> simp [dsdFrame]

@[simp] theorem length_interleave (s : State) (a blk channels : Nat) (br bs : Bool) (k : Nat) :
    (interleave s a blk channels br bs k).length = 4 * channels * k := by
  rw [interleave, flatMap_length_const _ _ (4 * channels) fun g => ?_, List.length_range]
  rw [flatMap_length_const _ _ 4 fun c => by simp, List.length_range]

/-- What the clamp guarantees (43_format_push.md R191). -/
theorem clampUnits_le (s : State) (nreq uout : Nat) :
    clampUnits s nreq uout ≤ nreq ∧ uout * clampUnits s nreq uout ≤ scratchBytes s.config ∧
      uout * clampUnits s nreq uout ≤ freeBytes s.cap s.wr s.snapP := by
  unfold clampUnits
  refine ⟨Nat.min_le_left _ _, ?_, ?_⟩
  · exact le_trans (Nat.mul_le_mul_left _ (le_trans (Nat.min_le_right _ _) (Nat.min_le_left _ _)))
      (Nat.mul_div_le _ _)
  · exact le_trans (Nat.mul_le_mul_left _ (le_trans (Nat.min_le_right _ _) (Nat.min_le_right _ _)))
      (Nat.mul_div_le _ _)

/-- Bit `i` of a reversed byte is bit `7 - i` of the byte (43_format_push.md R202). -/
theorem getLsbD_rev8 (b : Byte) (i : Nat) (h : i < 8) : (rev8 b).getLsbD i = b.getLsbD (7 - i) := by
  unfold rev8
  rw [BitVec.getLsbD_reverse, BitVec.getMsbD_eq_getLsbD]
  simp [h]

end Sys2Proof.Machine
end

