-- ==== Sys2Proof/Laws/Cursor.lean ====
section
/-! SUPPORT. The laws of the cursor arithmetic: the fill functions without a modulus, their bounds, a cursor's
advance, and the rounded capacity. -/

namespace Sys2Proof.Machine

/-- The remainder of an integer that is at most one modulus below zero. -/
theorem toNat_emod_of_lt (x c : Int) (h1 : -c ≤ x) (h2 : x < c) :
    (x % c).toNat = if 0 ≤ x then x.toNat else (x + c).toNat := by
  split
  · rw [Int.emod_eq_of_lt ‹_› h2]
  · rw [← Int.add_emod_right, Int.emod_eq_of_lt (by omega) (by omega)]

/-- `avail` of cursors below the capacity (10_state.md R28). -/
theorem availBytes_eq (cap w r : Word) (hw : w.toNat < cap.toNat) (hr : r.toNat < cap.toNat) :
    availBytes cap w r = if r.toNat ≤ w.toNat then w.toNat - r.toNat else w.toNat + cap.toNat - r.toNat := by
  unfold availBytes
  rw [toNat_emod_of_lt _ _ (by omega) (by omega)]
  split <;> split <;> omega

/-- `free` of cursors below the capacity (10_state.md R28). -/
theorem freeBytes_eq (cap w r : Word) (hw : w.toNat < cap.toNat) (hr : r.toNat < cap.toNat) :
    freeBytes cap w r = if w.toNat < r.toNat then r.toNat - w.toNat - 1 else r.toNat + cap.toNat - w.toNat - 1 := by
  unfold freeBytes
  rw [toNat_emod_of_lt _ _ (by omega) (by omega)]
  split <;> split <;> omega

theorem availBytes_lt (cap w r : Word) (h : 0 < cap.toNat) : availBytes cap w r < cap.toNat := by
  unfold availBytes
  have h1 := Int.emod_nonneg ((w.toNat : Int) - r.toNat) (show (cap.toNat : Int) ≠ 0 by omega)
  have h2 := Int.emod_lt_of_pos ((w.toNat : Int) - r.toNat) (show (0 : Int) < cap.toNat by omega)
  omega

theorem freeBytes_lt (cap w r : Word) (h : 0 < cap.toNat) : freeBytes cap w r < cap.toNat := by
  unfold freeBytes
  have h1 := Int.emod_nonneg ((r.toNat : Int) - w.toNat - 1) (show (cap.toNat : Int) ≠ 0 by omega)
  have h2 := Int.emod_lt_of_pos ((r.toNat : Int) - w.toNat - 1) (show (0 : Int) < cap.toNat by omega)
  omega

theorem contigFree_le_free (cap w r : Word) : contigFree cap w r ≤ freeBytes cap w r := Nat.min_le_left ..

theorem contigFree_le_end (cap w r : Word) : contigFree cap w r ≤ cap.toNat - w.toNat := Nat.min_le_right ..

theorem contigAvail_le_avail (cap w r : Word) : contigAvail cap w r ≤ availBytes cap w r := Nat.min_le_left ..

theorem contigAvail_le_end (cap w r : Word) : contigAvail cap w r ≤ cap.toNat - r.toNat := Nat.min_le_right ..

/-- A cursor after its move, as a number. -/
theorem advance_toNat (cap c : Word) (n : Nat) (h : 0 < cap.toNat) :
    (advance cap c n).toNat = (c.toNat + n) % cap.toNat := by
  unfold advance
  have hm := Nat.mod_lt (c.toNat + n) h
  have hc := cap.isLt
  rw [BitVec.toNat_ofNat, Nat.mod_eq_of_lt (by omega)]

theorem advance_lt (cap c : Word) (n : Nat) (h : 0 < cap.toNat) : (advance cap c n).toNat < cap.toNat := by
  rw [advance_toNat _ _ _ h]
  exact Nat.mod_lt _ h

/-- A cursor below the capacity after a move of at most the capacity, without a modulus. -/
theorem advance_eq (cap c : Word) (n : Nat) (hc : c.toNat < cap.toNat) (hn : n ≤ cap.toNat) :
    (advance cap c n).toNat =
      if c.toNat + n < cap.toNat then c.toNat + n else c.toNat + n - cap.toNat := by
  rw [advance_toNat _ _ _ (by omega)]
  split
  · exact Nat.mod_eq_of_lt ‹_›
  · rw [Nat.mod_eq_sub_mod (by omega), Nat.mod_eq_of_lt (by omega)]

/-- The rounded capacity is the smallest power of two that is large enough (40_ring_control.md R121). -/
theorem roundCapacity_spec (n : Nat) (h : n ≤ 2 ^ 31) :
    ∃ j, j < 32 ∧ roundCapacity n = 2 ^ j ∧ n ≤ 2 ^ j ∧ ∀ m, n ≤ 2 ^ m → j ≤ m := by
  unfold roundCapacity
  cases hf : (List.range 32).find? (fun j => decide (n ≤ 2 ^ j)) with
  | none =>
    exact absurd h (by simpa using List.find?_eq_none.1 hf 31 (by simp))
  | some j =>
    obtain ⟨hj, l, r, hl, hb⟩ := List.find?_eq_some_iff_append.1 hf
    have hmem : j ∈ List.range 32 := hl ▸ by simp
    refine ⟨j, List.mem_range.1 hmem, rfl, by simpa using hj, fun m hm => ?_⟩
    by_contra hlt
    have hlen : l.length = j := by
      have hj' : (l ++ j :: r)[l.length]? = some j := by simp
      rw [← hl, List.getElem?_range (by
        have : (List.range 32).length = (l ++ j :: r).length := by rw [hl]
        simp at this
        omega)] at hj'
      exact Option.some.inj hj'
    have hin : m ∈ l := by
      have hm' : (l ++ j :: r)[m]? = some m := by
        rw [← hl, List.getElem?_range (by have := List.mem_range.1 hmem; omega)]
      rw [List.getElem?_append_left (by omega)] at hm'
      exact List.mem_of_getElem? hm'
    simpa [hm] using hb m hin

/-- Beyond `2^31` the next power of two is `2^32`, above every `CAP_MAX`. -/
theorem roundCapacity_beyond (n : Nat) (h : 2 ^ 31 < n) : roundCapacity n = 2 ^ 32 := by
  unfold roundCapacity
  rw [List.find?_eq_none.2 fun j hj => ?_]
  have hj' : j ≤ 31 := by
    have := List.mem_range.1 hj
    omega
  have : 2 ^ j ≤ 2 ^ 31 := Nat.pow_le_pow_right (by omega) hj'
  simp
  omega

/-- `CAP_MAX` is at most `2^31` (00_scope.md R6). -/
theorem capMax_le (c : Config) : capMax c ≤ 2 ^ 31 := by
  unfold capMax
  exact Nat.pow_le_pow_right (by omega) (by omega)

end Sys2Proof.Machine
end

