-- ==== Sys2Proof/Laws/Decode.lean ====
section
/-! SUPPORT. The fields of a descriptor built from fields, and a descriptor rebuilt from its fields. -/

namespace Sys2Proof

/-- Every bit of a descriptor built from fields (30_encoding.md R91). -/
theorem getLsbD_descriptor (opc imm : Byte) (br bs : Bool) (len : Word) (addr : Addr) (i : Nat) :
    (descriptor opc imm br bs len addr).getLsbD i =
      if i < 8 then opc.getLsbD i
      else if i < 16 then imm.getLsbD (i - 8)
      else if i < 17 then br
      else if i < 18 then bs
      else if i < 32 then false
      else if i < 64 then len.getLsbD (i - 32)
      else addr.getLsbD (i - 64) := by
  have h : (descriptor opc imm br bs len addr).getLsbD i =
      (addr ++ len ++ 0#14 ++ BitVec.ofBool bs ++ BitVec.ofBool br ++ imm ++ opc).getLsbD i := rfl
  rw [h]
  simp only [BitVec.getLsbD_append, BitVec.getLsbD_ofBool, BitVec.getLsbD_zero]
  split_ifs <;> first | rfl | omega | (try simp; try omega)

section Fields

variable (opc imm : Byte) (br bs : Bool) (len : Word) (addr : Addr)

@[simp] theorem descOpc_descriptor : descOpc (descriptor opc imm br bs len addr) = opc := by
  refine BitVec.eq_of_getLsbD_eq fun i hi => ?_
  rw [descOpc, BitVec.getLsbD_extractLsb', getLsbD_descriptor]
  simp [hi]

@[simp] theorem descImm_descriptor : descImm (descriptor opc imm br bs len addr) = imm := by
  refine BitVec.eq_of_getLsbD_eq fun i hi => ?_
  rw [descImm, BitVec.getLsbD_extractLsb', getLsbD_descriptor, if_neg (by omega), if_pos (by omega)]
  simp [hi]

@[simp] theorem descBr_descriptor : descBr (descriptor opc imm br bs len addr) = br := by
  rw [descBr, getLsbD_descriptor]
  rfl

@[simp] theorem descBs_descriptor : descBs (descriptor opc imm br bs len addr) = bs := by
  rw [descBs, getLsbD_descriptor]
  rfl

@[simp] theorem descRsv_descriptor : descRsv (descriptor opc imm br bs len addr) = 0#14 := by
  refine BitVec.eq_of_getLsbD_eq fun i hi => ?_
  rw [descRsv, BitVec.getLsbD_extractLsb', getLsbD_descriptor, if_neg (by omega), if_neg (by omega),
    if_neg (by omega), if_neg (by omega), if_pos (by omega)]
  simp

@[simp] theorem descLen_descriptor : descLen (descriptor opc imm br bs len addr) = len := by
  refine BitVec.eq_of_getLsbD_eq fun i hi => ?_
  rw [descLen, BitVec.getLsbD_extractLsb', getLsbD_descriptor, if_neg (by omega), if_neg (by omega),
    if_neg (by omega), if_neg (by omega), if_neg (by omega), if_pos (by omega)]
  simp [hi]

@[simp] theorem descAddr_descriptor : descAddr (descriptor opc imm br bs len addr) = addr := by
  refine BitVec.eq_of_getLsbD_eq fun i hi => ?_
  rw [descAddr, BitVec.getLsbD_extractLsb', getLsbD_descriptor, if_neg (by omega), if_neg (by omega),
    if_neg (by omega), if_neg (by omega), if_neg (by omega), if_neg (by omega)]
  simp [hi]

end Fields

/-- A descriptor whose reserved bits are zero is the one its fields spell. -/
theorem descriptor_of_fields (d : Desc) (h : descRsv d = 0#14) :
    descriptor (descOpc d) (descImm d) (descBr d) (descBs d) (descLen d) (descAddr d) = d := by
  have hr : ∀ j, j < 14 → d.getLsbD (18 + j) = false := fun j hj => by
    have := congrArg (fun x => x.getLsbD j) h
    simpa [descRsv, BitVec.getLsbD_extractLsb', hj] using this
  refine BitVec.eq_of_getLsbD_eq fun i hi => ?_
  rw [getLsbD_descriptor]
  simp only [descOpc, descImm, descBr, descBs, descLen, descAddr, BitVec.getLsbD_extractLsb']
  split_ifs with h1 h2 h3 h4 h5 h6
  · simp [h1]
  · simp [show i - 8 < 8 by omega, show 8 + (i - 8) = i by omega]
  · rw [show i = 16 by omega]
  · rw [show i = 17 by omega]
  · have := hr (i - 18) (by omega)
    rw [show 18 + (i - 18) = i by omega] at this
    exact this.symm
  · simp [show i - 32 < 32 by omega, show 32 + (i - 32) = i by omega]
  · simp [show i - 64 < 64 by omega, show 64 + (i - 64) = i by omega]

end Sys2Proof
end

