-- ==== Sys2Proof/Laws/Memory.lean ====
section
/-! SUPPORT. The laws of the byte stores: a read after a write, the canonical form kept, and equal reads of canonical
stores meaning equal stores. -/

namespace Sys2Proof.Machine

/-! ### The canonical form, taken apart -/

@[simp] theorem Memory.wf_nil (fill : Byte) (size : Nat) : Memory.wf fill size [] = true := rfl

theorem Memory.wf_cons (fill : Byte) (size x : Nat) (b : Byte) (m : Memory) :
    Memory.wf fill size ((x, b) :: m) = true ↔
      b ≠ fill ∧ x < size ∧ (∀ c ∈ m, x < c.1) ∧ Memory.wf fill size m = true := by
  simp [Memory.wf, and_assoc]

/-- In a canonical store every address that stands after a larger one is unlisted. -/
theorem Memory.read_below (fill : Byte) (a : Nat) (m : Memory) (h : ∀ c ∈ m, a < c.1) :
    Memory.read fill a m = fill := by
  induction m with
  | nil => rfl
  | cons c rest ih =>
    have hc : a < c.1 := h c (by simp)
    simp only [Memory.read, if_neg (Nat.ne_of_lt hc)]
    exact ih fun d hd => h d (by simp [hd])

/-- An address at or above the size of a canonical store is unlisted. -/
theorem Memory.read_beyond (fill : Byte) (size a : Nat) (m : Memory) (h : Memory.wf fill size m = true)
    (ha : size ≤ a) : Memory.read fill a m = fill := by
  induction m with
  | nil => rfl
  | cons c rest ih =>
    obtain ⟨x, b⟩ := c
    obtain ⟨-, hx, -, hr⟩ := (Memory.wf_cons ..).1 h
    simp only [Memory.read, if_neg (show a ≠ x by omega)]
    exact ih hr

/-! ### One byte -/

/-- Which addresses a store lists after a write: only old ones and the one written. -/
theorem Memory.mem_write (fill : Byte) (a : Nat) (b : Byte) (m : Memory) (c : Host.Cell)
    (h : c ∈ Memory.write fill a b m) : c = (a, b) ∨ c ∈ m := by
  induction m with
  | nil =>
    unfold Memory.write at h
    split at h <;> simp_all
  | cons d rest ih =>
    obtain ⟨x, e⟩ := d
    unfold Memory.write at h
    split_ifs at h with h1 h2 h3 h4
    · exact Or.inr h
    · exact (List.mem_cons.1 h).imp id id
    · exact Or.inr (List.mem_cons_of_mem _ h)
    · exact (List.mem_cons.1 h).imp id fun h' => List.mem_cons_of_mem _ h'
    · rcases List.mem_cons.1 h with h' | h'
      · exact Or.inr (h' ▸ List.mem_cons_self)
      · exact (ih h').imp id fun h'' => List.mem_cons_of_mem _ h''

/-- A write inside the address space keeps the canonical form. -/
theorem Memory.write_wf (fill : Byte) (size a : Nat) (b : Byte) (m : Memory) (h : Memory.wf fill size m = true)
    (ha : a < size) : Memory.wf fill size (Memory.write fill a b m) = true := by
  induction m with
  | nil =>
    unfold Memory.write
    split
    · rfl
    · rename_i hb
      exact (Memory.wf_cons ..).2 ⟨hb, ha, by simp, rfl⟩
  | cons d rest ih =>
    obtain ⟨x, e⟩ := d
    obtain ⟨he, hx, hall, hr⟩ := (Memory.wf_cons ..).1 h
    unfold Memory.write
    split_ifs with h1 h2 h3 h4
    · exact h
    · refine (Memory.wf_cons ..).2 ⟨h2, ha, fun c hc => ?_, h⟩
      rcases List.mem_cons.1 hc with rfl | hc'
      · exact h1
      · exact lt_trans h1 (hall c hc')
    · exact hr
    · exact (Memory.wf_cons ..).2 ⟨h4, ha, h3 ▸ hall, hr⟩
    · refine (Memory.wf_cons ..).2 ⟨he, hx, fun c hc => ?_, ih hr⟩
      rcases Memory.mem_write _ _ _ _ _ hc with rfl | hc'
      · show x < a
        omega
      · exact hall c hc'

/-- A read after a write to a canonical store: the byte written there, every other byte as before. -/
theorem Memory.read_write (fill : Byte) (size a o : Nat) (b : Byte) (m : Memory) (h : Memory.wf fill size m = true) :
    Memory.read fill o (Memory.write fill a b m) = if o = a then b else Memory.read fill o m := by
  induction m with
  | nil =>
    unfold Memory.write
    split
    · rename_i hb
      split <;> simp [Memory.read, hb]
    · simp [Memory.read]
  | cons d rest ih =>
    obtain ⟨x, e⟩ := d
    obtain ⟨-, -, hall, hr⟩ := (Memory.wf_cons ..).1 h
    unfold Memory.write
    split_ifs with h1 h2 h3 h4 h5 h6 h7
    · subst h3
      rw [h2]
      refine Memory.read_below _ _ _ fun c hc => ?_
      rcases List.mem_cons.1 hc with rfl | hc'
      · exact h1
      · exact lt_trans h1 (hall c hc')
    · rfl
    · simp [Memory.read, h4]
    · simp [Memory.read, h4]
    · subst h5
      subst h7
      rw [h6, Memory.read_below _ _ _ hall]
    · simp only [Memory.read, if_neg (show o ≠ x by omega)]
    all_goals simp_all [Memory.read]

/-- The byte written is the byte read. -/
theorem Memory.read_write_same (fill : Byte) (size a : Nat) (b : Byte) (m : Memory)
    (h : Memory.wf fill size m = true) : Memory.read fill a (Memory.write fill a b m) = b := by
  rw [Memory.read_write fill size a a b m h, if_pos rfl]

/-- A write leaves every other byte alone. -/
theorem Memory.read_write_other (fill : Byte) (size a o : Nat) (b : Byte) (m : Memory)
    (h : Memory.wf fill size m = true) (ho : o ≠ a) :
    Memory.read fill o (Memory.write fill a b m) = Memory.read fill o m := by
  rw [Memory.read_write fill size a o b m h, if_neg ho]

/-! ### Byte lists -/

@[simp] theorem Memory.writeList_nil (fill : Byte) (a : Nat) (m : Memory) : Memory.writeList fill a [] m = m := rfl

@[simp] theorem Memory.length_readList (fill : Byte) (a n : Nat) (m : Memory) :
    (Memory.readList fill a n m).length = n := by
  simp [Memory.readList]

theorem Memory.getElem_readList (fill : Byte) (a n i : Nat) (m : Memory) (h : i < n) :
    (Memory.readList fill a n m)[i]'(by simpa using h) = Memory.read fill (a + i) m := by
  simp [Memory.readList]

/-- Writes of a list inside the address space keep the canonical form. -/
theorem Memory.writeList_wf (fill : Byte) (size a : Nat) (bs : List Byte) (m : Memory)
    (h : Memory.wf fill size m = true) (ha : a + bs.length ≤ size) :
    Memory.wf fill size (Memory.writeList fill a bs m) = true := by
  induction bs generalizing a m with
  | nil => exact h
  | cons b rest ih =>
    rw [List.length_cons] at ha
    exact ih (a + 1) _ (Memory.write_wf fill size a b m h (by omega)) (by omega)

/-- A read after a list of writes: inside the written span the byte of the list, elsewhere as before. -/
theorem Memory.read_writeList (fill : Byte) (size a o : Nat) (bs : List Byte) (m : Memory)
    (h : Memory.wf fill size m = true) (ha : a + bs.length ≤ size) :
    Memory.read fill o (Memory.writeList fill a bs m) =
      if a ≤ o ∧ o < a + bs.length then bs.getD (o - a) fill else Memory.read fill o m := by
  induction bs generalizing a m with
  | nil => simp
  | cons b rest ih =>
    rw [List.length_cons] at ha
    have hw := Memory.write_wf fill size a b m h (by omega)
    rw [Memory.writeList, ih (a + 1) _ hw (by omega), Memory.read_write fill size a o b m h]
    rcases lt_trichotomy o a with hlt | rfl | hgt
    · rw [if_neg (by omega), if_neg (by omega), if_neg (by omega)]
    · rw [if_neg (by omega), if_pos rfl, if_pos (by simp)]
      simp
    · have he : o - a = (o - (a + 1)) + 1 := by omega
      by_cases hin : o < a + 1 + rest.length
      · rw [if_pos (by omega), if_pos (by rw [List.length_cons]; omega), he]
        simp
      · rw [if_neg (by omega), if_neg (by omega), if_neg (by rw [List.length_cons]; omega)]

/-- The three stores after reset are canonical. -/
theorem resetWith_stores_wf (c : Config) :
    Memory.wf hostFill hostSize (State.resetWith c).hmem = true ∧
      Memory.wf (State.resetWith c).silence (State.resetWith c).cap.toNat (State.resetWith c).ring = true ∧
      Memory.wf scratchFill (scratchBytes c) (State.resetWith c).scratch = true := ⟨rfl, rfl, rfl⟩

/-! ### Equal reads, equal stores -/

/-- Two canonical stores that read alike are equal. -/
theorem Memory.ext_read (fill : Byte) (size : Nat) (m n : Memory) (hm : Memory.wf fill size m = true)
    (hn : Memory.wf fill size n = true) (h : ∀ a, Memory.read fill a m = Memory.read fill a n) : m = n := by
  induction m generalizing n with
  | nil =>
    cases n with
    | nil => rfl
    | cons c rest =>
      obtain ⟨x, b⟩ := c
      obtain ⟨hb, -⟩ := (Memory.wf_cons ..).1 hn
      exact absurd (by simpa [Memory.read] using (h x).symm) hb
  | cons c rest ih =>
    obtain ⟨x, b⟩ := c
    obtain ⟨hb, -, hall, hr⟩ := (Memory.wf_cons ..).1 hm
    cases n with
    | nil => exact absurd (by simpa [Memory.read] using h x) hb
    | cons d rest' =>
      obtain ⟨y, e⟩ := d
      obtain ⟨he, -, hall', hr'⟩ := (Memory.wf_cons ..).1 hn
      have hxy : x = y := by
        rcases lt_trichotomy x y with hlt | heq | hgt
        · refine absurd ?_ hb
          have := h x
          simp only [Memory.read, if_true, if_neg (show x ≠ y by omega)] at this
          rw [this]
          exact Memory.read_below _ _ _ fun c hc => lt_trans hlt (hall' c hc)
        · exact heq
        · refine absurd ?_ he
          have := h y
          simp only [Memory.read, if_true, if_neg (show y ≠ x by omega)] at this
          rw [← this]
          exact Memory.read_below _ _ _ fun c hc => lt_trans hgt (hall c hc)
      subst hxy
      have hbe : b = e := by simpa [Memory.read] using h x
      subst hbe
      congr 1
      refine ih rest' hr hr' fun a => ?_
      by_cases ha : a = x
      · subst ha
        rw [Memory.read_below _ _ _ hall, Memory.read_below _ _ _ hall']
      · simpa [Memory.read, ha] using h a

/-! ### Host memory through its names -/

@[simp] theorem length_memRead (s : State) (a n : Nat) : (memRead s a n).length = n := by
  simp [memRead]

/-- Host memory after `MemWrite`: the written bytes, every other as before. -/
theorem hostByte_memWrite (s : State) (a o : Nat) (v : List Byte)
    (h : Memory.wf hostFill hostSize s.hmem = true) (ha : a + v.length ≤ hostSize) :
    hostByte (memWrite a v s) o = if a ≤ o ∧ o < a + v.length then v.getD (o - a) hostFill else hostByte s o :=
  Memory.read_writeList hostFill hostSize a o v s.hmem h ha

end Sys2Proof.Machine
end

