-- ==== Sys2Proof/Laws/HostStore.lean ====
section
/-! SUPPORT. What a host agent's store can do, and which bytes the model counts as a buffer in flight. -/

namespace Sys2Proof.Machine

/-- When an address lies in a buffer. -/
theorem inBuffer_iff (addr : Addr) (len : Word) (a : Addr) :
    inBuffer addr len a = true ↔ addr.toNat ≤ a.toNat ∧ a.toNat < addr.toNat + len.toNat := by
  simp [inBuffer]

/-- The bytes a descriptor's command uses are those of its host buffer (20_memory.md R62). -/
theorem usesHostByte_iff (d : Desc) (a : Addr) : usesHostByte d a = true ↔ BufferByte d a := by
  unfold usesHostByte BufferByte
  cases decode d with
  | error e => simp
  | ok i => cases i <;> simp [inBuffer_iff]

/-- What counts as a byte of a buffer in flight (70_reset_and_hazards.md R277, log entry 10). -/
theorem hostByteInFlight_iff (s : State) (a : Addr) :
    hostByteInFlight s a = true ↔ s.fault = false ∧ BufferInFlight s a := by
  simp [hostByteInFlight, BufferInFlight, usesHostByte_iff]

/-- Everything a host agent's store can do. -/
theorem storeHost_cases (a : Addr) (b : Byte) (s : State) :
    (s.fault = false ∧ BufferInFlight s a ∧ storeHost a b s = .refused .hostBufferInUse) ∨
      ((s.fault = true ∨ ¬ BufferInFlight s a) ∧
        storeHost a b s = .next { s with hmem := Memory.write hostFill a.toNat b s.hmem }) := by
  unfold storeHost
  split
  · rename_i h
    exact Or.inl ⟨((hostByteInFlight_iff s a).1 h).1, ((hostByteInFlight_iff s a).1 h).2, rfl⟩
  · rename_i h
    refine Or.inr ⟨?_, rfl⟩
    rw [hostByteInFlight_iff] at h
    cases hf : s.fault
    · exact Or.inr fun hb => h ⟨hf, hb⟩
    · exact Or.inl rfl

end Sys2Proof.Machine
end

