-- ==== Sys2Proof/Laws/PerInstr.lean ====
section
/-! SUPPORT. A law of every command as syntax, one lemma per constructor: its descriptor carries its opcode and no
reserved bit (30_encoding.md R91, R92, R94). -/

namespace Sys2Proof.Laws.OpcodeField

/-- The descriptor of the command has the command's opcode in `OPC` and zero in `RSV`. -/
def Statement (i : Instr) : Prop := descOpc (encode i) = opcodeOf i ∧ descRsv (encode i) = 0#14

theorem resize (len : Word) (silence : Byte) : Statement (.resize len silence) := by simp [Statement, encode]
theorem clear : Statement .clear := by simp [Statement, encode]
theorem fillsil : Statement .fillsil := by simp [Statement, encode]
theorem sethint (hint : Byte) : Statement (.sethint hint) := by simp [Statement, encode]
theorem avail : Statement .avail := by simp [Statement, encode]
theorem free : Statement .free := by simp [Statement, encode]
theorem push (addr : Addr) (len : Word) : Statement (.push addr len) := by simp [Statement, encode]
theorem push24 (addr : Addr) (len : Word) : Statement (.push24 addr len) := by simp [Statement, encode]
theorem push16to32 (addr : Addr) (len : Word) : Statement (.push16to32 addr len) := by simp [Statement, encode]
theorem pushdsd (addr : Addr) (len : Word) (channels : Byte) (br bs : Bool) :
    Statement (.pushdsd addr len channels br bs) := by simp [Statement, encode]
theorem wregion (len : Word) : Statement (.wregion len) := by simp [Statement, encode]
theorem winwr (off : Addr) (byte : Byte) : Statement (.winwr off byte) := by simp [Statement, encode]
theorem commitw (n : Word) : Statement (.commitw n) := by simp [Statement, encode]
theorem pop (addr : Addr) (len : Word) : Statement (.pop addr len) := by simp [Statement, encode]
theorem rregion (len : Word) : Statement (.rregion len) := by simp [Statement, encode]
theorem winrd (off : Addr) : Statement (.winrd off) := by simp [Statement, encode]
theorem advancer (n : Word) : Statement (.advancer n) := by simp [Statement, encode]

end Sys2Proof.Laws.OpcodeField
end

