-- ==== Sys2Proof/Laws/Ring.lean ====
section
/-! SUPPORT. The laws of the ring copies: which bytes `ringPut` leaves where, that it keeps the canonical form, and
which bytes `ringBytes` reads (42_raw_transfer.md R170, R171). -/

namespace Sys2Proof.Machine

/-- How far offset `o` lies ahead of cursor `c` in the ring, going forward and around. -/
def ringDist (cap c o : Nat) : Nat := if c ≤ o then o - c else o + cap - c

/-- `ringPut` keeps the storage canonical and inside the ring. -/
theorem ringPut_wf (v : List Byte) (s : State) (h : Memory.wf s.silence s.cap.toNat s.ring = true)
    (hw : s.wr.toNat < s.cap.toNat) (hv : v.length ≤ s.cap.toNat) :
    Memory.wf s.silence s.cap.toNat (ringPut v s).ring = true := by
  unfold ringPut
  dsimp only
  refine Memory.writeList_wf _ _ _ _ _ (Memory.writeList_wf _ _ _ _ _ h ?_) ?_
  · rw [List.length_take]
    omega
  · rw [List.length_drop]
    omega

/-- The ring bytes after `ringPut`: the pushed bytes from `WR` on and around, every other byte as before (R170). -/
theorem ringByte_ringPut (v : List Byte) (s : State) (o : Nat)
    (h : Memory.wf s.silence s.cap.toNat s.ring = true) (hw : s.wr.toNat < s.cap.toNat)
    (hv : v.length ≤ s.cap.toNat) (ho : o < s.cap.toNat) :
    ringByte (ringPut v s) o =
      if ringDist s.cap.toNat s.wr.toNat o < v.length then v.getD (ringDist s.cap.toNat s.wr.toNat o) s.silence
      else ringByte s o := by
  have h1 := Memory.writeList_wf s.silence s.cap.toNat s.wr.toNat
    (v.take (min v.length (s.cap.toNat - s.wr.toNat))) s.ring h (by rw [List.length_take]; omega)
  unfold ringByte ringPut ringDist
  dsimp only
  rw [Memory.read_writeList _ s.cap.toNat _ _ _ _ h1 (by rw [List.length_drop]; omega),
    Memory.read_writeList _ s.cap.toNat _ _ _ _ h (by rw [List.length_take]; omega)]
  simp only [List.length_drop, List.length_take]
  by_cases hc : s.wr.toNat ≤ o
  · rw [if_pos hc, if_neg (by omega)]
    by_cases hin : o - s.wr.toNat < v.length
    · rw [if_pos hin, if_pos (by omega)]
      simp only [List.getD_eq_getElem?_getD]
      rw [List.getElem?_take_of_lt (by omega)]
    · rw [if_neg hin, if_neg (by omega)]
  · rw [if_neg hc]
    by_cases hin : o + s.cap.toNat - s.wr.toNat < v.length
    · rw [if_pos hin, if_pos (by omega)]
      simp only [List.getD_eq_getElem?_getD, List.getElem?_drop]
      congr 2
      omega
    · rw [if_neg hin, if_neg (by omega), if_neg (by omega)]

/-- The offset that lies `i` ahead of the cursor is `i` ahead of it. -/
theorem ringDist_ahead (cap c i : Nat) (hc : c < cap) (hi : i < cap) : ringDist cap c ((c + i) % cap) = i := by
  unfold ringDist
  by_cases h : c + i < cap
  · rw [Nat.mod_eq_of_lt h, if_pos (by omega)]
    omega
  · rw [Nat.mod_eq_sub_mod (by omega), Nat.mod_eq_of_lt (by omega), if_neg (by omega)]
    omega

/-- The offset at distance `ringDist` from the cursor is the offset itself. -/
theorem ahead_ringDist (cap c o : Nat) (hc : c < cap) (ho : o < cap) : (c + ringDist cap c o) % cap = o := by
  unfold ringDist
  split
  · rw [Nat.mod_eq_of_lt (by omega)]
    omega
  · rw [Nat.mod_eq_sub_mod (by omega), Nat.mod_eq_of_lt (by omega)]
    omega

theorem ringDist_lt (cap c o : Nat) (hc : c < cap) (ho : o < cap) : ringDist cap c o < cap := by
  unfold ringDist
  split <;> omega

/-- `RingGet(n)` reads the ring bytes from `RD` on and around (R171). -/
theorem ringBytes_eq (n : Nat) (s : State) (hr : s.rd.toNat < s.cap.toNat) (hn : n ≤ s.cap.toNat) :
    ringBytes n s = (List.range n).map fun i => ringByte s ((s.rd.toNat + i) % s.cap.toNat) := by
  refine List.ext_getElem (by simp [ringBytes]) fun i hi _ => ?_
  have hi' : i < n := by
    simp [ringBytes] at hi
    omega
  simp only [List.getElem_map, List.getElem_range, ringBytes, ringByte]
  by_cases h : i < min n (s.cap.toNat - s.rd.toNat)
  · rw [List.getElem_append_left (by simpa using h), Memory.getElem_readList _ _ _ _ _ h,
      Nat.mod_eq_of_lt (by omega)]
  · rw [List.getElem_append_right (by rw [Memory.length_readList]; omega)]
    simp only [Memory.length_readList]
    rw [Memory.getElem_readList _ _ _ _ _ (by omega), Nat.mod_eq_sub_mod (by omega), Nat.mod_eq_of_lt (by omega)]
    congr 1
    omega

@[simp] theorem length_ringBytes (n : Nat) (s : State) : (ringBytes n s).length = n := by
  simp [ringBytes]

end Sys2Proof.Machine
end

