-- ==== Sys2Proof/Laws/State.lean ====
section
/-! SUPPORT. What each named update of the state leaves in each field: one lemma per field per update. -/

namespace Sys2Proof.Machine

/-! ### `raiseFault` -/

@[simp] theorem raiseFault_config (c : FaultCode) (d : Desc) (s : State) : (raiseFault c d s).config = s.config := rfl
@[simp] theorem raiseFault_cfg (c : FaultCode) (d : Desc) (s : State) : (raiseFault c d s).cfg = s.cfg := rfl
@[simp] theorem raiseFault_cap (c : FaultCode) (d : Desc) (s : State) : (raiseFault c d s).cap = s.cap := rfl
@[simp] theorem raiseFault_wr (c : FaultCode) (d : Desc) (s : State) : (raiseFault c d s).wr = s.wr := rfl
@[simp] theorem raiseFault_rd (c : FaultCode) (d : Desc) (s : State) : (raiseFault c d s).rd = s.rd := rfl
@[simp] theorem raiseFault_silence (c : FaultCode) (d : Desc) (s : State) : (raiseFault c d s).silence = s.silence := rfl
@[simp] theorem raiseFault_ring (c : FaultCode) (d : Desc) (s : State) : (raiseFault c d s).ring = s.ring := rfl
@[simp] theorem raiseFault_mode (c : FaultCode) (d : Desc) (s : State) : (raiseFault c d s).mode = s.mode := rfl
@[simp] theorem raiseFault_hint (c : FaultCode) (d : Desc) (s : State) : (raiseFault c d s).hint = s.hint := rfl
@[simp] theorem raiseFault_conf (c : FaultCode) (d : Desc) (s : State) : (raiseFault c d s).conf = s.conf := rfl
@[simp] theorem raiseFault_defcnt (c : FaultCode) (d : Desc) (s : State) : (raiseFault c d s).defcnt = s.defcnt := rfl
@[simp] theorem raiseFault_rvalP (c : FaultCode) (d : Desc) (s : State) : (raiseFault c d s).rvalP = s.rvalP := rfl
@[simp] theorem raiseFault_rvalC (c : FaultCode) (d : Desc) (s : State) : (raiseFault c d s).rvalC = s.rvalC := rfl
@[simp] theorem raiseFault_rvalK (c : FaultCode) (d : Desc) (s : State) : (raiseFault c d s).rvalK = s.rvalK := rfl
@[simp] theorem raiseFault_rokP (c : FaultCode) (d : Desc) (s : State) : (raiseFault c d s).rokP = s.rokP := rfl
@[simp] theorem raiseFault_rokC (c : FaultCode) (d : Desc) (s : State) : (raiseFault c d s).rokC = s.rokC := rfl
@[simp] theorem raiseFault_rokK (c : FaultCode) (d : Desc) (s : State) : (raiseFault c d s).rokK = s.rokK := rfl
@[simp] theorem raiseFault_busyP (c : FaultCode) (d : Desc) (s : State) : (raiseFault c d s).busyP = s.busyP := rfl
@[simp] theorem raiseFault_busyC (c : FaultCode) (d : Desc) (s : State) : (raiseFault c d s).busyC = s.busyC := rfl
@[simp] theorem raiseFault_latchP (c : FaultCode) (d : Desc) (s : State) : (raiseFault c d s).latchP = s.latchP := rfl
@[simp] theorem raiseFault_latchC (c : FaultCode) (d : Desc) (s : State) : (raiseFault c d s).latchC = s.latchC := rfl
@[simp] theorem raiseFault_snapP (c : FaultCode) (d : Desc) (s : State) : (raiseFault c d s).snapP = s.snapP := rfl
@[simp] theorem raiseFault_snapC (c : FaultCode) (d : Desc) (s : State) : (raiseFault c d s).snapC = s.snapC := rfl
@[simp] theorem raiseFault_wgb (c : FaultCode) (d : Desc) (s : State) : (raiseFault c d s).wgb = s.wgb := rfl
@[simp] theorem raiseFault_wgl (c : FaultCode) (d : Desc) (s : State) : (raiseFault c d s).wgl = s.wgl := rfl
@[simp] theorem raiseFault_rgb (c : FaultCode) (d : Desc) (s : State) : (raiseFault c d s).rgb = s.rgb := rfl
@[simp] theorem raiseFault_rgl (c : FaultCode) (d : Desc) (s : State) : (raiseFault c d s).rgl = s.rgl := rfl
@[simp] theorem raiseFault_scratch (c : FaultCode) (d : Desc) (s : State) : (raiseFault c d s).scratch = s.scratch := rfl
@[simp] theorem raiseFault_fault (c : FaultCode) (d : Desc) (s : State) : (raiseFault c d s).fault = true := rfl
@[simp] theorem raiseFault_fcode (c : FaultCode) (d : Desc) (s : State) : (raiseFault c d s).fcode = faultCode c := rfl
@[simp] theorem raiseFault_fport (c : FaultCode) (d : Desc) (s : State) : (raiseFault c d s).fport = portCode s.active := rfl
@[simp] theorem raiseFault_fdesc (c : FaultCode) (d : Desc) (s : State) : (raiseFault c d s).fdesc = d := rfl
@[simp] theorem raiseFault_hmem (c : FaultCode) (d : Desc) (s : State) : (raiseFault c d s).hmem = s.hmem := rfl
@[simp] theorem raiseFault_offersP (c : FaultCode) (d : Desc) (s : State) : (raiseFault c d s).offersP = s.offersP := rfl
@[simp] theorem raiseFault_offersC (c : FaultCode) (d : Desc) (s : State) : (raiseFault c d s).offersC = s.offersC := rfl
@[simp] theorem raiseFault_offersK (c : FaultCode) (d : Desc) (s : State) : (raiseFault c d s).offersK = s.offersK := rfl
@[simp] theorem raiseFault_turns (c : FaultCode) (d : Desc) (s : State) : (raiseFault c d s).turns = s.turns := rfl
@[simp] theorem raiseFault_active (c : FaultCode) (d : Desc) (s : State) : (raiseFault c d s).active = s.active := rfl

/-! ### `finish` -/

@[simp] theorem finish_config (v : Word) (ok : Bool) (s : State) : (finish v ok s).config = s.config := rfl
@[simp] theorem finish_cfg (v : Word) (ok : Bool) (s : State) : (finish v ok s).cfg = s.cfg := rfl
@[simp] theorem finish_cap (v : Word) (ok : Bool) (s : State) : (finish v ok s).cap = s.cap := rfl
@[simp] theorem finish_wr (v : Word) (ok : Bool) (s : State) : (finish v ok s).wr = s.wr := rfl
@[simp] theorem finish_rd (v : Word) (ok : Bool) (s : State) : (finish v ok s).rd = s.rd := rfl
@[simp] theorem finish_silence (v : Word) (ok : Bool) (s : State) : (finish v ok s).silence = s.silence := rfl
@[simp] theorem finish_ring (v : Word) (ok : Bool) (s : State) : (finish v ok s).ring = s.ring := rfl
@[simp] theorem finish_mode (v : Word) (ok : Bool) (s : State) : (finish v ok s).mode = s.mode := rfl
@[simp] theorem finish_hint (v : Word) (ok : Bool) (s : State) : (finish v ok s).hint = s.hint := rfl
@[simp] theorem finish_conf (v : Word) (ok : Bool) (s : State) : (finish v ok s).conf = s.conf := rfl
@[simp] theorem finish_defcnt (v : Word) (ok : Bool) (s : State) : (finish v ok s).defcnt = s.defcnt := rfl
@[simp] theorem finish_rvalP (v : Word) (ok : Bool) (s : State) : (finish v ok s).rvalP = if s.active = .P then v else s.rvalP := rfl
@[simp] theorem finish_rvalC (v : Word) (ok : Bool) (s : State) : (finish v ok s).rvalC = if s.active = .C then v else s.rvalC := rfl
@[simp] theorem finish_rvalK (v : Word) (ok : Bool) (s : State) : (finish v ok s).rvalK = if s.active = .K then v else s.rvalK := rfl
@[simp] theorem finish_rokP (v : Word) (ok : Bool) (s : State) : (finish v ok s).rokP = if s.active = .P then ok else s.rokP := rfl
@[simp] theorem finish_rokC (v : Word) (ok : Bool) (s : State) : (finish v ok s).rokC = if s.active = .C then ok else s.rokC := rfl
@[simp] theorem finish_rokK (v : Word) (ok : Bool) (s : State) : (finish v ok s).rokK = if s.active = .K then ok else s.rokK := rfl
@[simp] theorem finish_busyP (v : Word) (ok : Bool) (s : State) : (finish v ok s).busyP = if s.active = .P then false else s.busyP := rfl
@[simp] theorem finish_busyC (v : Word) (ok : Bool) (s : State) : (finish v ok s).busyC = if s.active = .C then false else s.busyC := rfl
@[simp] theorem finish_latchP (v : Word) (ok : Bool) (s : State) : (finish v ok s).latchP = s.latchP := rfl
@[simp] theorem finish_latchC (v : Word) (ok : Bool) (s : State) : (finish v ok s).latchC = s.latchC := rfl
@[simp] theorem finish_snapP (v : Word) (ok : Bool) (s : State) : (finish v ok s).snapP = s.snapP := rfl
@[simp] theorem finish_snapC (v : Word) (ok : Bool) (s : State) : (finish v ok s).snapC = s.snapC := rfl
@[simp] theorem finish_wgb (v : Word) (ok : Bool) (s : State) : (finish v ok s).wgb = s.wgb := rfl
@[simp] theorem finish_wgl (v : Word) (ok : Bool) (s : State) : (finish v ok s).wgl = s.wgl := rfl
@[simp] theorem finish_rgb (v : Word) (ok : Bool) (s : State) : (finish v ok s).rgb = s.rgb := rfl
@[simp] theorem finish_rgl (v : Word) (ok : Bool) (s : State) : (finish v ok s).rgl = s.rgl := rfl
@[simp] theorem finish_scratch (v : Word) (ok : Bool) (s : State) : (finish v ok s).scratch = s.scratch := rfl
@[simp] theorem finish_fault (v : Word) (ok : Bool) (s : State) : (finish v ok s).fault = s.fault := rfl
@[simp] theorem finish_fcode (v : Word) (ok : Bool) (s : State) : (finish v ok s).fcode = s.fcode := rfl
@[simp] theorem finish_fport (v : Word) (ok : Bool) (s : State) : (finish v ok s).fport = s.fport := rfl
@[simp] theorem finish_fdesc (v : Word) (ok : Bool) (s : State) : (finish v ok s).fdesc = s.fdesc := rfl
@[simp] theorem finish_hmem (v : Word) (ok : Bool) (s : State) : (finish v ok s).hmem = s.hmem := rfl
@[simp] theorem finish_offersP (v : Word) (ok : Bool) (s : State) : (finish v ok s).offersP = s.offersP := rfl
@[simp] theorem finish_offersC (v : Word) (ok : Bool) (s : State) : (finish v ok s).offersC = s.offersC := rfl
@[simp] theorem finish_offersK (v : Word) (ok : Bool) (s : State) : (finish v ok s).offersK = s.offersK := rfl
@[simp] theorem finish_turns (v : Word) (ok : Bool) (s : State) : (finish v ok s).turns = s.turns := rfl
@[simp] theorem finish_active (v : Word) (ok : Bool) (s : State) : (finish v ok s).active = s.active := rfl

/-! ### `ringPut` -/

@[simp] theorem ringPut_config (v : List Byte) (s : State) : (ringPut v s).config = s.config := rfl
@[simp] theorem ringPut_cfg (v : List Byte) (s : State) : (ringPut v s).cfg = s.cfg := rfl
@[simp] theorem ringPut_cap (v : List Byte) (s : State) : (ringPut v s).cap = s.cap := rfl
@[simp] theorem ringPut_wr (v : List Byte) (s : State) : (ringPut v s).wr = advance s.cap s.wr v.length := rfl
@[simp] theorem ringPut_rd (v : List Byte) (s : State) : (ringPut v s).rd = s.rd := rfl
@[simp] theorem ringPut_silence (v : List Byte) (s : State) : (ringPut v s).silence = s.silence := rfl
@[simp] theorem ringPut_mode (v : List Byte) (s : State) : (ringPut v s).mode = s.mode := rfl
@[simp] theorem ringPut_hint (v : List Byte) (s : State) : (ringPut v s).hint = s.hint := rfl
@[simp] theorem ringPut_conf (v : List Byte) (s : State) : (ringPut v s).conf = s.conf := rfl
@[simp] theorem ringPut_defcnt (v : List Byte) (s : State) : (ringPut v s).defcnt = s.defcnt := rfl
@[simp] theorem ringPut_rvalP (v : List Byte) (s : State) : (ringPut v s).rvalP = s.rvalP := rfl
@[simp] theorem ringPut_rvalC (v : List Byte) (s : State) : (ringPut v s).rvalC = s.rvalC := rfl
@[simp] theorem ringPut_rvalK (v : List Byte) (s : State) : (ringPut v s).rvalK = s.rvalK := rfl
@[simp] theorem ringPut_rokP (v : List Byte) (s : State) : (ringPut v s).rokP = s.rokP := rfl
@[simp] theorem ringPut_rokC (v : List Byte) (s : State) : (ringPut v s).rokC = s.rokC := rfl
@[simp] theorem ringPut_rokK (v : List Byte) (s : State) : (ringPut v s).rokK = s.rokK := rfl
@[simp] theorem ringPut_busyP (v : List Byte) (s : State) : (ringPut v s).busyP = s.busyP := rfl
@[simp] theorem ringPut_busyC (v : List Byte) (s : State) : (ringPut v s).busyC = s.busyC := rfl
@[simp] theorem ringPut_latchP (v : List Byte) (s : State) : (ringPut v s).latchP = s.latchP := rfl
@[simp] theorem ringPut_latchC (v : List Byte) (s : State) : (ringPut v s).latchC = s.latchC := rfl
@[simp] theorem ringPut_snapP (v : List Byte) (s : State) : (ringPut v s).snapP = s.snapP := rfl
@[simp] theorem ringPut_snapC (v : List Byte) (s : State) : (ringPut v s).snapC = s.snapC := rfl
@[simp] theorem ringPut_wgb (v : List Byte) (s : State) : (ringPut v s).wgb = s.wgb := rfl
@[simp] theorem ringPut_wgl (v : List Byte) (s : State) : (ringPut v s).wgl = s.wgl := rfl
@[simp] theorem ringPut_rgb (v : List Byte) (s : State) : (ringPut v s).rgb = s.rgb := rfl
@[simp] theorem ringPut_rgl (v : List Byte) (s : State) : (ringPut v s).rgl = s.rgl := rfl
@[simp] theorem ringPut_scratch (v : List Byte) (s : State) : (ringPut v s).scratch = s.scratch := rfl
@[simp] theorem ringPut_fault (v : List Byte) (s : State) : (ringPut v s).fault = s.fault := rfl
@[simp] theorem ringPut_fcode (v : List Byte) (s : State) : (ringPut v s).fcode = s.fcode := rfl
@[simp] theorem ringPut_fport (v : List Byte) (s : State) : (ringPut v s).fport = s.fport := rfl
@[simp] theorem ringPut_fdesc (v : List Byte) (s : State) : (ringPut v s).fdesc = s.fdesc := rfl
@[simp] theorem ringPut_hmem (v : List Byte) (s : State) : (ringPut v s).hmem = s.hmem := rfl
@[simp] theorem ringPut_offersP (v : List Byte) (s : State) : (ringPut v s).offersP = s.offersP := rfl
@[simp] theorem ringPut_offersC (v : List Byte) (s : State) : (ringPut v s).offersC = s.offersC := rfl
@[simp] theorem ringPut_offersK (v : List Byte) (s : State) : (ringPut v s).offersK = s.offersK := rfl
@[simp] theorem ringPut_turns (v : List Byte) (s : State) : (ringPut v s).turns = s.turns := rfl
@[simp] theorem ringPut_active (v : List Byte) (s : State) : (ringPut v s).active = s.active := rfl

/-! ### `ringDrop` -/

@[simp] theorem ringDrop_config (n : Nat) (s : State) : (ringDrop n s).config = s.config := rfl
@[simp] theorem ringDrop_cfg (n : Nat) (s : State) : (ringDrop n s).cfg = s.cfg := rfl
@[simp] theorem ringDrop_cap (n : Nat) (s : State) : (ringDrop n s).cap = s.cap := rfl
@[simp] theorem ringDrop_wr (n : Nat) (s : State) : (ringDrop n s).wr = s.wr := rfl
@[simp] theorem ringDrop_rd (n : Nat) (s : State) : (ringDrop n s).rd = advance s.cap s.rd n := rfl
@[simp] theorem ringDrop_silence (n : Nat) (s : State) : (ringDrop n s).silence = s.silence := rfl
@[simp] theorem ringDrop_ring (n : Nat) (s : State) : (ringDrop n s).ring = s.ring := rfl
@[simp] theorem ringDrop_mode (n : Nat) (s : State) : (ringDrop n s).mode = s.mode := rfl
@[simp] theorem ringDrop_hint (n : Nat) (s : State) : (ringDrop n s).hint = s.hint := rfl
@[simp] theorem ringDrop_conf (n : Nat) (s : State) : (ringDrop n s).conf = s.conf := rfl
@[simp] theorem ringDrop_defcnt (n : Nat) (s : State) : (ringDrop n s).defcnt = s.defcnt := rfl
@[simp] theorem ringDrop_rvalP (n : Nat) (s : State) : (ringDrop n s).rvalP = s.rvalP := rfl
@[simp] theorem ringDrop_rvalC (n : Nat) (s : State) : (ringDrop n s).rvalC = s.rvalC := rfl
@[simp] theorem ringDrop_rvalK (n : Nat) (s : State) : (ringDrop n s).rvalK = s.rvalK := rfl
@[simp] theorem ringDrop_rokP (n : Nat) (s : State) : (ringDrop n s).rokP = s.rokP := rfl
@[simp] theorem ringDrop_rokC (n : Nat) (s : State) : (ringDrop n s).rokC = s.rokC := rfl
@[simp] theorem ringDrop_rokK (n : Nat) (s : State) : (ringDrop n s).rokK = s.rokK := rfl
@[simp] theorem ringDrop_busyP (n : Nat) (s : State) : (ringDrop n s).busyP = s.busyP := rfl
@[simp] theorem ringDrop_busyC (n : Nat) (s : State) : (ringDrop n s).busyC = s.busyC := rfl
@[simp] theorem ringDrop_latchP (n : Nat) (s : State) : (ringDrop n s).latchP = s.latchP := rfl
@[simp] theorem ringDrop_latchC (n : Nat) (s : State) : (ringDrop n s).latchC = s.latchC := rfl
@[simp] theorem ringDrop_snapP (n : Nat) (s : State) : (ringDrop n s).snapP = s.snapP := rfl
@[simp] theorem ringDrop_snapC (n : Nat) (s : State) : (ringDrop n s).snapC = s.snapC := rfl
@[simp] theorem ringDrop_wgb (n : Nat) (s : State) : (ringDrop n s).wgb = s.wgb := rfl
@[simp] theorem ringDrop_wgl (n : Nat) (s : State) : (ringDrop n s).wgl = s.wgl := rfl
@[simp] theorem ringDrop_rgb (n : Nat) (s : State) : (ringDrop n s).rgb = s.rgb := rfl
@[simp] theorem ringDrop_rgl (n : Nat) (s : State) : (ringDrop n s).rgl = s.rgl := rfl
@[simp] theorem ringDrop_scratch (n : Nat) (s : State) : (ringDrop n s).scratch = s.scratch := rfl
@[simp] theorem ringDrop_fault (n : Nat) (s : State) : (ringDrop n s).fault = s.fault := rfl
@[simp] theorem ringDrop_fcode (n : Nat) (s : State) : (ringDrop n s).fcode = s.fcode := rfl
@[simp] theorem ringDrop_fport (n : Nat) (s : State) : (ringDrop n s).fport = s.fport := rfl
@[simp] theorem ringDrop_fdesc (n : Nat) (s : State) : (ringDrop n s).fdesc = s.fdesc := rfl
@[simp] theorem ringDrop_hmem (n : Nat) (s : State) : (ringDrop n s).hmem = s.hmem := rfl
@[simp] theorem ringDrop_offersP (n : Nat) (s : State) : (ringDrop n s).offersP = s.offersP := rfl
@[simp] theorem ringDrop_offersC (n : Nat) (s : State) : (ringDrop n s).offersC = s.offersC := rfl
@[simp] theorem ringDrop_offersK (n : Nat) (s : State) : (ringDrop n s).offersK = s.offersK := rfl
@[simp] theorem ringDrop_turns (n : Nat) (s : State) : (ringDrop n s).turns = s.turns := rfl
@[simp] theorem ringDrop_active (n : Nat) (s : State) : (ringDrop n s).active = s.active := rfl

/-! ### `setWriteGrant` -/

@[simp] theorem setWriteGrant_config (b l : Word) (s : State) : (setWriteGrant b l s).config = s.config := rfl
@[simp] theorem setWriteGrant_cfg (b l : Word) (s : State) : (setWriteGrant b l s).cfg = s.cfg := rfl
@[simp] theorem setWriteGrant_cap (b l : Word) (s : State) : (setWriteGrant b l s).cap = s.cap := rfl
@[simp] theorem setWriteGrant_wr (b l : Word) (s : State) : (setWriteGrant b l s).wr = s.wr := rfl
@[simp] theorem setWriteGrant_rd (b l : Word) (s : State) : (setWriteGrant b l s).rd = s.rd := rfl
@[simp] theorem setWriteGrant_silence (b l : Word) (s : State) : (setWriteGrant b l s).silence = s.silence := rfl
@[simp] theorem setWriteGrant_ring (b l : Word) (s : State) : (setWriteGrant b l s).ring = s.ring := rfl
@[simp] theorem setWriteGrant_mode (b l : Word) (s : State) : (setWriteGrant b l s).mode = s.mode := rfl
@[simp] theorem setWriteGrant_hint (b l : Word) (s : State) : (setWriteGrant b l s).hint = s.hint := rfl
@[simp] theorem setWriteGrant_conf (b l : Word) (s : State) : (setWriteGrant b l s).conf = s.conf := rfl
@[simp] theorem setWriteGrant_defcnt (b l : Word) (s : State) : (setWriteGrant b l s).defcnt = s.defcnt := rfl
@[simp] theorem setWriteGrant_rvalP (b l : Word) (s : State) : (setWriteGrant b l s).rvalP = s.rvalP := rfl
@[simp] theorem setWriteGrant_rvalC (b l : Word) (s : State) : (setWriteGrant b l s).rvalC = s.rvalC := rfl
@[simp] theorem setWriteGrant_rvalK (b l : Word) (s : State) : (setWriteGrant b l s).rvalK = s.rvalK := rfl
@[simp] theorem setWriteGrant_rokP (b l : Word) (s : State) : (setWriteGrant b l s).rokP = s.rokP := rfl
@[simp] theorem setWriteGrant_rokC (b l : Word) (s : State) : (setWriteGrant b l s).rokC = s.rokC := rfl
@[simp] theorem setWriteGrant_rokK (b l : Word) (s : State) : (setWriteGrant b l s).rokK = s.rokK := rfl
@[simp] theorem setWriteGrant_busyP (b l : Word) (s : State) : (setWriteGrant b l s).busyP = s.busyP := rfl
@[simp] theorem setWriteGrant_busyC (b l : Word) (s : State) : (setWriteGrant b l s).busyC = s.busyC := rfl
@[simp] theorem setWriteGrant_latchP (b l : Word) (s : State) : (setWriteGrant b l s).latchP = s.latchP := rfl
@[simp] theorem setWriteGrant_latchC (b l : Word) (s : State) : (setWriteGrant b l s).latchC = s.latchC := rfl
@[simp] theorem setWriteGrant_snapP (b l : Word) (s : State) : (setWriteGrant b l s).snapP = s.snapP := rfl
@[simp] theorem setWriteGrant_snapC (b l : Word) (s : State) : (setWriteGrant b l s).snapC = s.snapC := rfl
@[simp] theorem setWriteGrant_wgb (b l : Word) (s : State) : (setWriteGrant b l s).wgb = b := rfl
@[simp] theorem setWriteGrant_wgl (b l : Word) (s : State) : (setWriteGrant b l s).wgl = l := rfl
@[simp] theorem setWriteGrant_rgb (b l : Word) (s : State) : (setWriteGrant b l s).rgb = s.rgb := rfl
@[simp] theorem setWriteGrant_rgl (b l : Word) (s : State) : (setWriteGrant b l s).rgl = s.rgl := rfl
@[simp] theorem setWriteGrant_scratch (b l : Word) (s : State) : (setWriteGrant b l s).scratch = s.scratch := rfl
@[simp] theorem setWriteGrant_fault (b l : Word) (s : State) : (setWriteGrant b l s).fault = s.fault := rfl
@[simp] theorem setWriteGrant_fcode (b l : Word) (s : State) : (setWriteGrant b l s).fcode = s.fcode := rfl
@[simp] theorem setWriteGrant_fport (b l : Word) (s : State) : (setWriteGrant b l s).fport = s.fport := rfl
@[simp] theorem setWriteGrant_fdesc (b l : Word) (s : State) : (setWriteGrant b l s).fdesc = s.fdesc := rfl
@[simp] theorem setWriteGrant_hmem (b l : Word) (s : State) : (setWriteGrant b l s).hmem = s.hmem := rfl
@[simp] theorem setWriteGrant_offersP (b l : Word) (s : State) : (setWriteGrant b l s).offersP = s.offersP := rfl
@[simp] theorem setWriteGrant_offersC (b l : Word) (s : State) : (setWriteGrant b l s).offersC = s.offersC := rfl
@[simp] theorem setWriteGrant_offersK (b l : Word) (s : State) : (setWriteGrant b l s).offersK = s.offersK := rfl
@[simp] theorem setWriteGrant_turns (b l : Word) (s : State) : (setWriteGrant b l s).turns = s.turns := rfl
@[simp] theorem setWriteGrant_active (b l : Word) (s : State) : (setWriteGrant b l s).active = s.active := rfl

/-! ### `setReadGrant` -/

@[simp] theorem setReadGrant_config (b l : Word) (s : State) : (setReadGrant b l s).config = s.config := rfl
@[simp] theorem setReadGrant_cfg (b l : Word) (s : State) : (setReadGrant b l s).cfg = s.cfg := rfl
@[simp] theorem setReadGrant_cap (b l : Word) (s : State) : (setReadGrant b l s).cap = s.cap := rfl
@[simp] theorem setReadGrant_wr (b l : Word) (s : State) : (setReadGrant b l s).wr = s.wr := rfl
@[simp] theorem setReadGrant_rd (b l : Word) (s : State) : (setReadGrant b l s).rd = s.rd := rfl
@[simp] theorem setReadGrant_silence (b l : Word) (s : State) : (setReadGrant b l s).silence = s.silence := rfl
@[simp] theorem setReadGrant_ring (b l : Word) (s : State) : (setReadGrant b l s).ring = s.ring := rfl
@[simp] theorem setReadGrant_mode (b l : Word) (s : State) : (setReadGrant b l s).mode = s.mode := rfl
@[simp] theorem setReadGrant_hint (b l : Word) (s : State) : (setReadGrant b l s).hint = s.hint := rfl
@[simp] theorem setReadGrant_conf (b l : Word) (s : State) : (setReadGrant b l s).conf = s.conf := rfl
@[simp] theorem setReadGrant_defcnt (b l : Word) (s : State) : (setReadGrant b l s).defcnt = s.defcnt := rfl
@[simp] theorem setReadGrant_rvalP (b l : Word) (s : State) : (setReadGrant b l s).rvalP = s.rvalP := rfl
@[simp] theorem setReadGrant_rvalC (b l : Word) (s : State) : (setReadGrant b l s).rvalC = s.rvalC := rfl
@[simp] theorem setReadGrant_rvalK (b l : Word) (s : State) : (setReadGrant b l s).rvalK = s.rvalK := rfl
@[simp] theorem setReadGrant_rokP (b l : Word) (s : State) : (setReadGrant b l s).rokP = s.rokP := rfl
@[simp] theorem setReadGrant_rokC (b l : Word) (s : State) : (setReadGrant b l s).rokC = s.rokC := rfl
@[simp] theorem setReadGrant_rokK (b l : Word) (s : State) : (setReadGrant b l s).rokK = s.rokK := rfl
@[simp] theorem setReadGrant_busyP (b l : Word) (s : State) : (setReadGrant b l s).busyP = s.busyP := rfl
@[simp] theorem setReadGrant_busyC (b l : Word) (s : State) : (setReadGrant b l s).busyC = s.busyC := rfl
@[simp] theorem setReadGrant_latchP (b l : Word) (s : State) : (setReadGrant b l s).latchP = s.latchP := rfl
@[simp] theorem setReadGrant_latchC (b l : Word) (s : State) : (setReadGrant b l s).latchC = s.latchC := rfl
@[simp] theorem setReadGrant_snapP (b l : Word) (s : State) : (setReadGrant b l s).snapP = s.snapP := rfl
@[simp] theorem setReadGrant_snapC (b l : Word) (s : State) : (setReadGrant b l s).snapC = s.snapC := rfl
@[simp] theorem setReadGrant_wgb (b l : Word) (s : State) : (setReadGrant b l s).wgb = s.wgb := rfl
@[simp] theorem setReadGrant_wgl (b l : Word) (s : State) : (setReadGrant b l s).wgl = s.wgl := rfl
@[simp] theorem setReadGrant_rgb (b l : Word) (s : State) : (setReadGrant b l s).rgb = b := rfl
@[simp] theorem setReadGrant_rgl (b l : Word) (s : State) : (setReadGrant b l s).rgl = l := rfl
@[simp] theorem setReadGrant_scratch (b l : Word) (s : State) : (setReadGrant b l s).scratch = s.scratch := rfl
@[simp] theorem setReadGrant_fault (b l : Word) (s : State) : (setReadGrant b l s).fault = s.fault := rfl
@[simp] theorem setReadGrant_fcode (b l : Word) (s : State) : (setReadGrant b l s).fcode = s.fcode := rfl
@[simp] theorem setReadGrant_fport (b l : Word) (s : State) : (setReadGrant b l s).fport = s.fport := rfl
@[simp] theorem setReadGrant_fdesc (b l : Word) (s : State) : (setReadGrant b l s).fdesc = s.fdesc := rfl
@[simp] theorem setReadGrant_hmem (b l : Word) (s : State) : (setReadGrant b l s).hmem = s.hmem := rfl
@[simp] theorem setReadGrant_offersP (b l : Word) (s : State) : (setReadGrant b l s).offersP = s.offersP := rfl
@[simp] theorem setReadGrant_offersC (b l : Word) (s : State) : (setReadGrant b l s).offersC = s.offersC := rfl
@[simp] theorem setReadGrant_offersK (b l : Word) (s : State) : (setReadGrant b l s).offersK = s.offersK := rfl
@[simp] theorem setReadGrant_turns (b l : Word) (s : State) : (setReadGrant b l s).turns = s.turns := rfl
@[simp] theorem setReadGrant_active (b l : Word) (s : State) : (setReadGrant b l s).active = s.active := rfl

/-! ### `revokeGrants` -/

@[simp] theorem revokeGrants_config (s : State) : (revokeGrants s).config = s.config := rfl
@[simp] theorem revokeGrants_cfg (s : State) : (revokeGrants s).cfg = s.cfg := rfl
@[simp] theorem revokeGrants_cap (s : State) : (revokeGrants s).cap = s.cap := rfl
@[simp] theorem revokeGrants_wr (s : State) : (revokeGrants s).wr = s.wr := rfl
@[simp] theorem revokeGrants_rd (s : State) : (revokeGrants s).rd = s.rd := rfl
@[simp] theorem revokeGrants_silence (s : State) : (revokeGrants s).silence = s.silence := rfl
@[simp] theorem revokeGrants_ring (s : State) : (revokeGrants s).ring = s.ring := rfl
@[simp] theorem revokeGrants_mode (s : State) : (revokeGrants s).mode = s.mode := rfl
@[simp] theorem revokeGrants_hint (s : State) : (revokeGrants s).hint = s.hint := rfl
@[simp] theorem revokeGrants_conf (s : State) : (revokeGrants s).conf = s.conf := rfl
@[simp] theorem revokeGrants_defcnt (s : State) : (revokeGrants s).defcnt = s.defcnt := rfl
@[simp] theorem revokeGrants_rvalP (s : State) : (revokeGrants s).rvalP = s.rvalP := rfl
@[simp] theorem revokeGrants_rvalC (s : State) : (revokeGrants s).rvalC = s.rvalC := rfl
@[simp] theorem revokeGrants_rvalK (s : State) : (revokeGrants s).rvalK = s.rvalK := rfl
@[simp] theorem revokeGrants_rokP (s : State) : (revokeGrants s).rokP = s.rokP := rfl
@[simp] theorem revokeGrants_rokC (s : State) : (revokeGrants s).rokC = s.rokC := rfl
@[simp] theorem revokeGrants_rokK (s : State) : (revokeGrants s).rokK = s.rokK := rfl
@[simp] theorem revokeGrants_busyP (s : State) : (revokeGrants s).busyP = s.busyP := rfl
@[simp] theorem revokeGrants_busyC (s : State) : (revokeGrants s).busyC = s.busyC := rfl
@[simp] theorem revokeGrants_latchP (s : State) : (revokeGrants s).latchP = s.latchP := rfl
@[simp] theorem revokeGrants_latchC (s : State) : (revokeGrants s).latchC = s.latchC := rfl
@[simp] theorem revokeGrants_snapP (s : State) : (revokeGrants s).snapP = s.snapP := rfl
@[simp] theorem revokeGrants_snapC (s : State) : (revokeGrants s).snapC = s.snapC := rfl
@[simp] theorem revokeGrants_wgb (s : State) : (revokeGrants s).wgb = 0#32 := rfl
@[simp] theorem revokeGrants_wgl (s : State) : (revokeGrants s).wgl = 0#32 := rfl
@[simp] theorem revokeGrants_rgb (s : State) : (revokeGrants s).rgb = 0#32 := rfl
@[simp] theorem revokeGrants_rgl (s : State) : (revokeGrants s).rgl = 0#32 := rfl
@[simp] theorem revokeGrants_scratch (s : State) : (revokeGrants s).scratch = s.scratch := rfl
@[simp] theorem revokeGrants_fault (s : State) : (revokeGrants s).fault = s.fault := rfl
@[simp] theorem revokeGrants_fcode (s : State) : (revokeGrants s).fcode = s.fcode := rfl
@[simp] theorem revokeGrants_fport (s : State) : (revokeGrants s).fport = s.fport := rfl
@[simp] theorem revokeGrants_fdesc (s : State) : (revokeGrants s).fdesc = s.fdesc := rfl
@[simp] theorem revokeGrants_hmem (s : State) : (revokeGrants s).hmem = s.hmem := rfl
@[simp] theorem revokeGrants_offersP (s : State) : (revokeGrants s).offersP = s.offersP := rfl
@[simp] theorem revokeGrants_offersC (s : State) : (revokeGrants s).offersC = s.offersC := rfl
@[simp] theorem revokeGrants_offersK (s : State) : (revokeGrants s).offersK = s.offersK := rfl
@[simp] theorem revokeGrants_turns (s : State) : (revokeGrants s).turns = s.turns := rfl
@[simp] theorem revokeGrants_active (s : State) : (revokeGrants s).active = s.active := rfl

/-! ### `memWrite` -/

@[simp] theorem memWrite_config (a : Nat) (v : List Byte) (s : State) : (memWrite a v s).config = s.config := rfl
@[simp] theorem memWrite_cfg (a : Nat) (v : List Byte) (s : State) : (memWrite a v s).cfg = s.cfg := rfl
@[simp] theorem memWrite_cap (a : Nat) (v : List Byte) (s : State) : (memWrite a v s).cap = s.cap := rfl
@[simp] theorem memWrite_wr (a : Nat) (v : List Byte) (s : State) : (memWrite a v s).wr = s.wr := rfl
@[simp] theorem memWrite_rd (a : Nat) (v : List Byte) (s : State) : (memWrite a v s).rd = s.rd := rfl
@[simp] theorem memWrite_silence (a : Nat) (v : List Byte) (s : State) : (memWrite a v s).silence = s.silence := rfl
@[simp] theorem memWrite_ring (a : Nat) (v : List Byte) (s : State) : (memWrite a v s).ring = s.ring := rfl
@[simp] theorem memWrite_mode (a : Nat) (v : List Byte) (s : State) : (memWrite a v s).mode = s.mode := rfl
@[simp] theorem memWrite_hint (a : Nat) (v : List Byte) (s : State) : (memWrite a v s).hint = s.hint := rfl
@[simp] theorem memWrite_conf (a : Nat) (v : List Byte) (s : State) : (memWrite a v s).conf = s.conf := rfl
@[simp] theorem memWrite_defcnt (a : Nat) (v : List Byte) (s : State) : (memWrite a v s).defcnt = s.defcnt := rfl
@[simp] theorem memWrite_rvalP (a : Nat) (v : List Byte) (s : State) : (memWrite a v s).rvalP = s.rvalP := rfl
@[simp] theorem memWrite_rvalC (a : Nat) (v : List Byte) (s : State) : (memWrite a v s).rvalC = s.rvalC := rfl
@[simp] theorem memWrite_rvalK (a : Nat) (v : List Byte) (s : State) : (memWrite a v s).rvalK = s.rvalK := rfl
@[simp] theorem memWrite_rokP (a : Nat) (v : List Byte) (s : State) : (memWrite a v s).rokP = s.rokP := rfl
@[simp] theorem memWrite_rokC (a : Nat) (v : List Byte) (s : State) : (memWrite a v s).rokC = s.rokC := rfl
@[simp] theorem memWrite_rokK (a : Nat) (v : List Byte) (s : State) : (memWrite a v s).rokK = s.rokK := rfl
@[simp] theorem memWrite_busyP (a : Nat) (v : List Byte) (s : State) : (memWrite a v s).busyP = s.busyP := rfl
@[simp] theorem memWrite_busyC (a : Nat) (v : List Byte) (s : State) : (memWrite a v s).busyC = s.busyC := rfl
@[simp] theorem memWrite_latchP (a : Nat) (v : List Byte) (s : State) : (memWrite a v s).latchP = s.latchP := rfl
@[simp] theorem memWrite_latchC (a : Nat) (v : List Byte) (s : State) : (memWrite a v s).latchC = s.latchC := rfl
@[simp] theorem memWrite_snapP (a : Nat) (v : List Byte) (s : State) : (memWrite a v s).snapP = s.snapP := rfl
@[simp] theorem memWrite_snapC (a : Nat) (v : List Byte) (s : State) : (memWrite a v s).snapC = s.snapC := rfl
@[simp] theorem memWrite_wgb (a : Nat) (v : List Byte) (s : State) : (memWrite a v s).wgb = s.wgb := rfl
@[simp] theorem memWrite_wgl (a : Nat) (v : List Byte) (s : State) : (memWrite a v s).wgl = s.wgl := rfl
@[simp] theorem memWrite_rgb (a : Nat) (v : List Byte) (s : State) : (memWrite a v s).rgb = s.rgb := rfl
@[simp] theorem memWrite_rgl (a : Nat) (v : List Byte) (s : State) : (memWrite a v s).rgl = s.rgl := rfl
@[simp] theorem memWrite_scratch (a : Nat) (v : List Byte) (s : State) : (memWrite a v s).scratch = s.scratch := rfl
@[simp] theorem memWrite_fault (a : Nat) (v : List Byte) (s : State) : (memWrite a v s).fault = s.fault := rfl
@[simp] theorem memWrite_fcode (a : Nat) (v : List Byte) (s : State) : (memWrite a v s).fcode = s.fcode := rfl
@[simp] theorem memWrite_fport (a : Nat) (v : List Byte) (s : State) : (memWrite a v s).fport = s.fport := rfl
@[simp] theorem memWrite_fdesc (a : Nat) (v : List Byte) (s : State) : (memWrite a v s).fdesc = s.fdesc := rfl
@[simp] theorem memWrite_hmem (a : Nat) (v : List Byte) (s : State) : (memWrite a v s).hmem = Memory.writeList hostFill a v s.hmem := rfl
@[simp] theorem memWrite_offersP (a : Nat) (v : List Byte) (s : State) : (memWrite a v s).offersP = s.offersP := rfl
@[simp] theorem memWrite_offersC (a : Nat) (v : List Byte) (s : State) : (memWrite a v s).offersC = s.offersC := rfl
@[simp] theorem memWrite_offersK (a : Nat) (v : List Byte) (s : State) : (memWrite a v s).offersK = s.offersK := rfl
@[simp] theorem memWrite_turns (a : Nat) (v : List Byte) (s : State) : (memWrite a v s).turns = s.turns := rfl
@[simp] theorem memWrite_active (a : Nat) (v : List Byte) (s : State) : (memWrite a v s).active = s.active := rfl

/-! ### `updateHint` -/

@[simp] theorem updateHint_config (h : Option SampleSide) (s : State) : (updateHint h s).config = s.config := rfl
@[simp] theorem updateHint_cfg (h : Option SampleSide) (s : State) : (updateHint h s).cfg = s.cfg := rfl
@[simp] theorem updateHint_cap (h : Option SampleSide) (s : State) : (updateHint h s).cap = s.cap := rfl
@[simp] theorem updateHint_wr (h : Option SampleSide) (s : State) : (updateHint h s).wr = s.wr := rfl
@[simp] theorem updateHint_rd (h : Option SampleSide) (s : State) : (updateHint h s).rd = s.rd := rfl
@[simp] theorem updateHint_silence (h : Option SampleSide) (s : State) : (updateHint h s).silence = s.silence := rfl
@[simp] theorem updateHint_ring (h : Option SampleSide) (s : State) : (updateHint h s).ring = s.ring := rfl
@[simp] theorem updateHint_mode (h : Option SampleSide) (s : State) : (updateHint h s).mode = modeOfHint h := rfl
@[simp] theorem updateHint_hint (h : Option SampleSide) (s : State) : (updateHint h s).hint = h := rfl
@[simp] theorem updateHint_conf (h : Option SampleSide) (s : State) : (updateHint h s).conf = false := rfl
@[simp] theorem updateHint_defcnt (h : Option SampleSide) (s : State) : (updateHint h s).defcnt = 0#32 := rfl
@[simp] theorem updateHint_rvalP (h : Option SampleSide) (s : State) : (updateHint h s).rvalP = s.rvalP := rfl
@[simp] theorem updateHint_rvalC (h : Option SampleSide) (s : State) : (updateHint h s).rvalC = s.rvalC := rfl
@[simp] theorem updateHint_rvalK (h : Option SampleSide) (s : State) : (updateHint h s).rvalK = s.rvalK := rfl
@[simp] theorem updateHint_rokP (h : Option SampleSide) (s : State) : (updateHint h s).rokP = s.rokP := rfl
@[simp] theorem updateHint_rokC (h : Option SampleSide) (s : State) : (updateHint h s).rokC = s.rokC := rfl
@[simp] theorem updateHint_rokK (h : Option SampleSide) (s : State) : (updateHint h s).rokK = s.rokK := rfl
@[simp] theorem updateHint_busyP (h : Option SampleSide) (s : State) : (updateHint h s).busyP = s.busyP := rfl
@[simp] theorem updateHint_busyC (h : Option SampleSide) (s : State) : (updateHint h s).busyC = s.busyC := rfl
@[simp] theorem updateHint_latchP (h : Option SampleSide) (s : State) : (updateHint h s).latchP = s.latchP := rfl
@[simp] theorem updateHint_latchC (h : Option SampleSide) (s : State) : (updateHint h s).latchC = s.latchC := rfl
@[simp] theorem updateHint_snapP (h : Option SampleSide) (s : State) : (updateHint h s).snapP = s.snapP := rfl
@[simp] theorem updateHint_snapC (h : Option SampleSide) (s : State) : (updateHint h s).snapC = s.snapC := rfl
@[simp] theorem updateHint_wgb (h : Option SampleSide) (s : State) : (updateHint h s).wgb = s.wgb := rfl
@[simp] theorem updateHint_wgl (h : Option SampleSide) (s : State) : (updateHint h s).wgl = s.wgl := rfl
@[simp] theorem updateHint_rgb (h : Option SampleSide) (s : State) : (updateHint h s).rgb = s.rgb := rfl
@[simp] theorem updateHint_rgl (h : Option SampleSide) (s : State) : (updateHint h s).rgl = s.rgl := rfl
@[simp] theorem updateHint_scratch (h : Option SampleSide) (s : State) : (updateHint h s).scratch = s.scratch := rfl
@[simp] theorem updateHint_fault (h : Option SampleSide) (s : State) : (updateHint h s).fault = s.fault := rfl
@[simp] theorem updateHint_fcode (h : Option SampleSide) (s : State) : (updateHint h s).fcode = s.fcode := rfl
@[simp] theorem updateHint_fport (h : Option SampleSide) (s : State) : (updateHint h s).fport = s.fport := rfl
@[simp] theorem updateHint_fdesc (h : Option SampleSide) (s : State) : (updateHint h s).fdesc = s.fdesc := rfl
@[simp] theorem updateHint_hmem (h : Option SampleSide) (s : State) : (updateHint h s).hmem = s.hmem := rfl
@[simp] theorem updateHint_offersP (h : Option SampleSide) (s : State) : (updateHint h s).offersP = s.offersP := rfl
@[simp] theorem updateHint_offersC (h : Option SampleSide) (s : State) : (updateHint h s).offersC = s.offersC := rfl
@[simp] theorem updateHint_offersK (h : Option SampleSide) (s : State) : (updateHint h s).offersK = s.offersK := rfl
@[simp] theorem updateHint_turns (h : Option SampleSide) (s : State) : (updateHint h s).turns = s.turns := rfl
@[simp] theorem updateHint_active (h : Option SampleSide) (s : State) : (updateHint h s).active = s.active := rfl

/-! ### `issueP` -/

@[simp] theorem issueP_config (d : Desc) (s : State) : (issueP d s).config = s.config := rfl
@[simp] theorem issueP_cfg (d : Desc) (s : State) : (issueP d s).cfg = s.cfg := rfl
@[simp] theorem issueP_cap (d : Desc) (s : State) : (issueP d s).cap = s.cap := rfl
@[simp] theorem issueP_wr (d : Desc) (s : State) : (issueP d s).wr = s.wr := rfl
@[simp] theorem issueP_rd (d : Desc) (s : State) : (issueP d s).rd = s.rd := rfl
@[simp] theorem issueP_silence (d : Desc) (s : State) : (issueP d s).silence = s.silence := rfl
@[simp] theorem issueP_ring (d : Desc) (s : State) : (issueP d s).ring = s.ring := rfl
@[simp] theorem issueP_mode (d : Desc) (s : State) : (issueP d s).mode = s.mode := rfl
@[simp] theorem issueP_hint (d : Desc) (s : State) : (issueP d s).hint = s.hint := rfl
@[simp] theorem issueP_conf (d : Desc) (s : State) : (issueP d s).conf = s.conf := rfl
@[simp] theorem issueP_defcnt (d : Desc) (s : State) : (issueP d s).defcnt = s.defcnt := rfl
@[simp] theorem issueP_rvalP (d : Desc) (s : State) : (issueP d s).rvalP = s.rvalP := rfl
@[simp] theorem issueP_rvalC (d : Desc) (s : State) : (issueP d s).rvalC = s.rvalC := rfl
@[simp] theorem issueP_rvalK (d : Desc) (s : State) : (issueP d s).rvalK = s.rvalK := rfl
@[simp] theorem issueP_rokP (d : Desc) (s : State) : (issueP d s).rokP = s.rokP := rfl
@[simp] theorem issueP_rokC (d : Desc) (s : State) : (issueP d s).rokC = s.rokC := rfl
@[simp] theorem issueP_rokK (d : Desc) (s : State) : (issueP d s).rokK = s.rokK := rfl
@[simp] theorem issueP_busyP (d : Desc) (s : State) : (issueP d s).busyP = true := rfl
@[simp] theorem issueP_busyC (d : Desc) (s : State) : (issueP d s).busyC = s.busyC := rfl
@[simp] theorem issueP_latchP (d : Desc) (s : State) : (issueP d s).latchP = d := rfl
@[simp] theorem issueP_latchC (d : Desc) (s : State) : (issueP d s).latchC = s.latchC := rfl
@[simp] theorem issueP_snapP (d : Desc) (s : State) : (issueP d s).snapP = s.rd := rfl
@[simp] theorem issueP_snapC (d : Desc) (s : State) : (issueP d s).snapC = s.snapC := rfl
@[simp] theorem issueP_wgb (d : Desc) (s : State) : (issueP d s).wgb = s.wgb := rfl
@[simp] theorem issueP_wgl (d : Desc) (s : State) : (issueP d s).wgl = s.wgl := rfl
@[simp] theorem issueP_rgb (d : Desc) (s : State) : (issueP d s).rgb = s.rgb := rfl
@[simp] theorem issueP_rgl (d : Desc) (s : State) : (issueP d s).rgl = s.rgl := rfl
@[simp] theorem issueP_scratch (d : Desc) (s : State) : (issueP d s).scratch = s.scratch := rfl
@[simp] theorem issueP_fault (d : Desc) (s : State) : (issueP d s).fault = s.fault := rfl
@[simp] theorem issueP_fcode (d : Desc) (s : State) : (issueP d s).fcode = s.fcode := rfl
@[simp] theorem issueP_fport (d : Desc) (s : State) : (issueP d s).fport = s.fport := rfl
@[simp] theorem issueP_fdesc (d : Desc) (s : State) : (issueP d s).fdesc = s.fdesc := rfl
@[simp] theorem issueP_hmem (d : Desc) (s : State) : (issueP d s).hmem = s.hmem := rfl
@[simp] theorem issueP_offersP (d : Desc) (s : State) : (issueP d s).offersP = s.offersP := rfl
@[simp] theorem issueP_offersC (d : Desc) (s : State) : (issueP d s).offersC = s.offersC := rfl
@[simp] theorem issueP_offersK (d : Desc) (s : State) : (issueP d s).offersK = s.offersK := rfl
@[simp] theorem issueP_turns (d : Desc) (s : State) : (issueP d s).turns = s.turns := rfl
@[simp] theorem issueP_active (d : Desc) (s : State) : (issueP d s).active = s.active := rfl

/-! ### `issueC` -/

@[simp] theorem issueC_config (d : Desc) (s : State) : (issueC d s).config = s.config := rfl
@[simp] theorem issueC_cfg (d : Desc) (s : State) : (issueC d s).cfg = s.cfg := rfl
@[simp] theorem issueC_cap (d : Desc) (s : State) : (issueC d s).cap = s.cap := rfl
@[simp] theorem issueC_wr (d : Desc) (s : State) : (issueC d s).wr = s.wr := rfl
@[simp] theorem issueC_rd (d : Desc) (s : State) : (issueC d s).rd = s.rd := rfl
@[simp] theorem issueC_silence (d : Desc) (s : State) : (issueC d s).silence = s.silence := rfl
@[simp] theorem issueC_ring (d : Desc) (s : State) : (issueC d s).ring = s.ring := rfl
@[simp] theorem issueC_mode (d : Desc) (s : State) : (issueC d s).mode = s.mode := rfl
@[simp] theorem issueC_hint (d : Desc) (s : State) : (issueC d s).hint = s.hint := rfl
@[simp] theorem issueC_conf (d : Desc) (s : State) : (issueC d s).conf = s.conf := rfl
@[simp] theorem issueC_defcnt (d : Desc) (s : State) : (issueC d s).defcnt = s.defcnt := rfl
@[simp] theorem issueC_rvalP (d : Desc) (s : State) : (issueC d s).rvalP = s.rvalP := rfl
@[simp] theorem issueC_rvalC (d : Desc) (s : State) : (issueC d s).rvalC = s.rvalC := rfl
@[simp] theorem issueC_rvalK (d : Desc) (s : State) : (issueC d s).rvalK = s.rvalK := rfl
@[simp] theorem issueC_rokP (d : Desc) (s : State) : (issueC d s).rokP = s.rokP := rfl
@[simp] theorem issueC_rokC (d : Desc) (s : State) : (issueC d s).rokC = s.rokC := rfl
@[simp] theorem issueC_rokK (d : Desc) (s : State) : (issueC d s).rokK = s.rokK := rfl
@[simp] theorem issueC_busyP (d : Desc) (s : State) : (issueC d s).busyP = s.busyP := rfl
@[simp] theorem issueC_busyC (d : Desc) (s : State) : (issueC d s).busyC = true := rfl
@[simp] theorem issueC_latchP (d : Desc) (s : State) : (issueC d s).latchP = s.latchP := rfl
@[simp] theorem issueC_latchC (d : Desc) (s : State) : (issueC d s).latchC = d := rfl
@[simp] theorem issueC_snapP (d : Desc) (s : State) : (issueC d s).snapP = s.snapP := rfl
@[simp] theorem issueC_snapC (d : Desc) (s : State) : (issueC d s).snapC = s.wr := rfl
@[simp] theorem issueC_wgb (d : Desc) (s : State) : (issueC d s).wgb = s.wgb := rfl
@[simp] theorem issueC_wgl (d : Desc) (s : State) : (issueC d s).wgl = s.wgl := rfl
@[simp] theorem issueC_rgb (d : Desc) (s : State) : (issueC d s).rgb = s.rgb := rfl
@[simp] theorem issueC_rgl (d : Desc) (s : State) : (issueC d s).rgl = s.rgl := rfl
@[simp] theorem issueC_scratch (d : Desc) (s : State) : (issueC d s).scratch = s.scratch := rfl
@[simp] theorem issueC_fault (d : Desc) (s : State) : (issueC d s).fault = s.fault := rfl
@[simp] theorem issueC_fcode (d : Desc) (s : State) : (issueC d s).fcode = s.fcode := rfl
@[simp] theorem issueC_fport (d : Desc) (s : State) : (issueC d s).fport = s.fport := rfl
@[simp] theorem issueC_fdesc (d : Desc) (s : State) : (issueC d s).fdesc = s.fdesc := rfl
@[simp] theorem issueC_hmem (d : Desc) (s : State) : (issueC d s).hmem = s.hmem := rfl
@[simp] theorem issueC_offersP (d : Desc) (s : State) : (issueC d s).offersP = s.offersP := rfl
@[simp] theorem issueC_offersC (d : Desc) (s : State) : (issueC d s).offersC = s.offersC := rfl
@[simp] theorem issueC_offersK (d : Desc) (s : State) : (issueC d s).offersK = s.offersK := rfl
@[simp] theorem issueC_turns (d : Desc) (s : State) : (issueC d s).turns = s.turns := rfl
@[simp] theorem issueC_active (d : Desc) (s : State) : (issueC d s).active = s.active := rfl

/-! ### `deferUnits`, `detect` and `detectIfNeeded`: only `MODE`, `CONF` and `DEFCNT` can change -/

@[simp] theorem deferUnits_config (k : Nat) (s : State) : (deferUnits k s).config = s.config := by
  unfold deferUnits; dsimp only; split <;> rfl
@[simp] theorem deferUnits_cfg (k : Nat) (s : State) : (deferUnits k s).cfg = s.cfg := by
  unfold deferUnits; dsimp only; split <;> rfl
@[simp] theorem deferUnits_cap (k : Nat) (s : State) : (deferUnits k s).cap = s.cap := by
  unfold deferUnits; dsimp only; split <;> rfl
@[simp] theorem deferUnits_wr (k : Nat) (s : State) : (deferUnits k s).wr = s.wr := by
  unfold deferUnits; dsimp only; split <;> rfl
@[simp] theorem deferUnits_rd (k : Nat) (s : State) : (deferUnits k s).rd = s.rd := by
  unfold deferUnits; dsimp only; split <;> rfl
@[simp] theorem deferUnits_silence (k : Nat) (s : State) : (deferUnits k s).silence = s.silence := by
  unfold deferUnits; dsimp only; split <;> rfl
@[simp] theorem deferUnits_ring (k : Nat) (s : State) : (deferUnits k s).ring = s.ring := by
  unfold deferUnits; dsimp only; split <;> rfl
@[simp] theorem deferUnits_hint (k : Nat) (s : State) : (deferUnits k s).hint = s.hint := by
  unfold deferUnits; dsimp only; split <;> rfl
@[simp] theorem deferUnits_rvalP (k : Nat) (s : State) : (deferUnits k s).rvalP = s.rvalP := by
  unfold deferUnits; dsimp only; split <;> rfl
@[simp] theorem deferUnits_rvalC (k : Nat) (s : State) : (deferUnits k s).rvalC = s.rvalC := by
  unfold deferUnits; dsimp only; split <;> rfl
@[simp] theorem deferUnits_rvalK (k : Nat) (s : State) : (deferUnits k s).rvalK = s.rvalK := by
  unfold deferUnits; dsimp only; split <;> rfl
@[simp] theorem deferUnits_rokP (k : Nat) (s : State) : (deferUnits k s).rokP = s.rokP := by
  unfold deferUnits; dsimp only; split <;> rfl
@[simp] theorem deferUnits_rokC (k : Nat) (s : State) : (deferUnits k s).rokC = s.rokC := by
  unfold deferUnits; dsimp only; split <;> rfl
@[simp] theorem deferUnits_rokK (k : Nat) (s : State) : (deferUnits k s).rokK = s.rokK := by
  unfold deferUnits; dsimp only; split <;> rfl
@[simp] theorem deferUnits_busyP (k : Nat) (s : State) : (deferUnits k s).busyP = s.busyP := by
  unfold deferUnits; dsimp only; split <;> rfl
@[simp] theorem deferUnits_busyC (k : Nat) (s : State) : (deferUnits k s).busyC = s.busyC := by
  unfold deferUnits; dsimp only; split <;> rfl
@[simp] theorem deferUnits_latchP (k : Nat) (s : State) : (deferUnits k s).latchP = s.latchP := by
  unfold deferUnits; dsimp only; split <;> rfl
@[simp] theorem deferUnits_latchC (k : Nat) (s : State) : (deferUnits k s).latchC = s.latchC := by
  unfold deferUnits; dsimp only; split <;> rfl
@[simp] theorem deferUnits_snapP (k : Nat) (s : State) : (deferUnits k s).snapP = s.snapP := by
  unfold deferUnits; dsimp only; split <;> rfl
@[simp] theorem deferUnits_snapC (k : Nat) (s : State) : (deferUnits k s).snapC = s.snapC := by
  unfold deferUnits; dsimp only; split <;> rfl
@[simp] theorem deferUnits_wgb (k : Nat) (s : State) : (deferUnits k s).wgb = s.wgb := by
  unfold deferUnits; dsimp only; split <;> rfl
@[simp] theorem deferUnits_wgl (k : Nat) (s : State) : (deferUnits k s).wgl = s.wgl := by
  unfold deferUnits; dsimp only; split <;> rfl
@[simp] theorem deferUnits_rgb (k : Nat) (s : State) : (deferUnits k s).rgb = s.rgb := by
  unfold deferUnits; dsimp only; split <;> rfl
@[simp] theorem deferUnits_rgl (k : Nat) (s : State) : (deferUnits k s).rgl = s.rgl := by
  unfold deferUnits; dsimp only; split <;> rfl
@[simp] theorem deferUnits_scratch (k : Nat) (s : State) : (deferUnits k s).scratch = s.scratch := by
  unfold deferUnits; dsimp only; split <;> rfl
@[simp] theorem deferUnits_fault (k : Nat) (s : State) : (deferUnits k s).fault = s.fault := by
  unfold deferUnits; dsimp only; split <;> rfl
@[simp] theorem deferUnits_fcode (k : Nat) (s : State) : (deferUnits k s).fcode = s.fcode := by
  unfold deferUnits; dsimp only; split <;> rfl
@[simp] theorem deferUnits_fport (k : Nat) (s : State) : (deferUnits k s).fport = s.fport := by
  unfold deferUnits; dsimp only; split <;> rfl
@[simp] theorem deferUnits_fdesc (k : Nat) (s : State) : (deferUnits k s).fdesc = s.fdesc := by
  unfold deferUnits; dsimp only; split <;> rfl
@[simp] theorem deferUnits_hmem (k : Nat) (s : State) : (deferUnits k s).hmem = s.hmem := by
  unfold deferUnits; dsimp only; split <;> rfl
@[simp] theorem deferUnits_offersP (k : Nat) (s : State) : (deferUnits k s).offersP = s.offersP := by
  unfold deferUnits; dsimp only; split <;> rfl
@[simp] theorem deferUnits_offersC (k : Nat) (s : State) : (deferUnits k s).offersC = s.offersC := by
  unfold deferUnits; dsimp only; split <;> rfl
@[simp] theorem deferUnits_offersK (k : Nat) (s : State) : (deferUnits k s).offersK = s.offersK := by
  unfold deferUnits; dsimp only; split <;> rfl
@[simp] theorem deferUnits_turns (k : Nat) (s : State) : (deferUnits k s).turns = s.turns := by
  unfold deferUnits; dsimp only; split <;> rfl
@[simp] theorem deferUnits_active (k : Nat) (s : State) : (deferUnits k s).active = s.active := by
  unfold deferUnits; dsimp only; split <;> rfl

@[simp] theorem detect_config (a k : Nat) (s : State) : (detect a k s).config = s.config := by
  unfold detect; dsimp only; split <;> simp
@[simp] theorem detect_cfg (a k : Nat) (s : State) : (detect a k s).cfg = s.cfg := by
  unfold detect; dsimp only; split <;> simp
@[simp] theorem detect_cap (a k : Nat) (s : State) : (detect a k s).cap = s.cap := by
  unfold detect; dsimp only; split <;> simp
@[simp] theorem detect_wr (a k : Nat) (s : State) : (detect a k s).wr = s.wr := by
  unfold detect; dsimp only; split <;> simp
@[simp] theorem detect_rd (a k : Nat) (s : State) : (detect a k s).rd = s.rd := by
  unfold detect; dsimp only; split <;> simp
@[simp] theorem detect_silence (a k : Nat) (s : State) : (detect a k s).silence = s.silence := by
  unfold detect; dsimp only; split <;> simp
@[simp] theorem detect_ring (a k : Nat) (s : State) : (detect a k s).ring = s.ring := by
  unfold detect; dsimp only; split <;> simp
@[simp] theorem detect_hint (a k : Nat) (s : State) : (detect a k s).hint = s.hint := by
  unfold detect; dsimp only; split <;> simp
@[simp] theorem detect_rvalP (a k : Nat) (s : State) : (detect a k s).rvalP = s.rvalP := by
  unfold detect; dsimp only; split <;> simp
@[simp] theorem detect_rvalC (a k : Nat) (s : State) : (detect a k s).rvalC = s.rvalC := by
  unfold detect; dsimp only; split <;> simp
@[simp] theorem detect_rvalK (a k : Nat) (s : State) : (detect a k s).rvalK = s.rvalK := by
  unfold detect; dsimp only; split <;> simp
@[simp] theorem detect_rokP (a k : Nat) (s : State) : (detect a k s).rokP = s.rokP := by
  unfold detect; dsimp only; split <;> simp
@[simp] theorem detect_rokC (a k : Nat) (s : State) : (detect a k s).rokC = s.rokC := by
  unfold detect; dsimp only; split <;> simp
@[simp] theorem detect_rokK (a k : Nat) (s : State) : (detect a k s).rokK = s.rokK := by
  unfold detect; dsimp only; split <;> simp
@[simp] theorem detect_busyP (a k : Nat) (s : State) : (detect a k s).busyP = s.busyP := by
  unfold detect; dsimp only; split <;> simp
@[simp] theorem detect_busyC (a k : Nat) (s : State) : (detect a k s).busyC = s.busyC := by
  unfold detect; dsimp only; split <;> simp
@[simp] theorem detect_latchP (a k : Nat) (s : State) : (detect a k s).latchP = s.latchP := by
  unfold detect; dsimp only; split <;> simp
@[simp] theorem detect_latchC (a k : Nat) (s : State) : (detect a k s).latchC = s.latchC := by
  unfold detect; dsimp only; split <;> simp
@[simp] theorem detect_snapP (a k : Nat) (s : State) : (detect a k s).snapP = s.snapP := by
  unfold detect; dsimp only; split <;> simp
@[simp] theorem detect_snapC (a k : Nat) (s : State) : (detect a k s).snapC = s.snapC := by
  unfold detect; dsimp only; split <;> simp
@[simp] theorem detect_wgb (a k : Nat) (s : State) : (detect a k s).wgb = s.wgb := by
  unfold detect; dsimp only; split <;> simp
@[simp] theorem detect_wgl (a k : Nat) (s : State) : (detect a k s).wgl = s.wgl := by
  unfold detect; dsimp only; split <;> simp
@[simp] theorem detect_rgb (a k : Nat) (s : State) : (detect a k s).rgb = s.rgb := by
  unfold detect; dsimp only; split <;> simp
@[simp] theorem detect_rgl (a k : Nat) (s : State) : (detect a k s).rgl = s.rgl := by
  unfold detect; dsimp only; split <;> simp
@[simp] theorem detect_scratch (a k : Nat) (s : State) : (detect a k s).scratch = s.scratch := by
  unfold detect; dsimp only; split <;> simp
@[simp] theorem detect_fault (a k : Nat) (s : State) : (detect a k s).fault = s.fault := by
  unfold detect; dsimp only; split <;> simp
@[simp] theorem detect_fcode (a k : Nat) (s : State) : (detect a k s).fcode = s.fcode := by
  unfold detect; dsimp only; split <;> simp
@[simp] theorem detect_fport (a k : Nat) (s : State) : (detect a k s).fport = s.fport := by
  unfold detect; dsimp only; split <;> simp
@[simp] theorem detect_fdesc (a k : Nat) (s : State) : (detect a k s).fdesc = s.fdesc := by
  unfold detect; dsimp only; split <;> simp
@[simp] theorem detect_hmem (a k : Nat) (s : State) : (detect a k s).hmem = s.hmem := by
  unfold detect; dsimp only; split <;> simp
@[simp] theorem detect_offersP (a k : Nat) (s : State) : (detect a k s).offersP = s.offersP := by
  unfold detect; dsimp only; split <;> simp
@[simp] theorem detect_offersC (a k : Nat) (s : State) : (detect a k s).offersC = s.offersC := by
  unfold detect; dsimp only; split <;> simp
@[simp] theorem detect_offersK (a k : Nat) (s : State) : (detect a k s).offersK = s.offersK := by
  unfold detect; dsimp only; split <;> simp
@[simp] theorem detect_turns (a k : Nat) (s : State) : (detect a k s).turns = s.turns := by
  unfold detect; dsimp only; split <;> simp
@[simp] theorem detect_active (a k : Nat) (s : State) : (detect a k s).active = s.active := by
  unfold detect; dsimp only; split <;> simp

@[simp] theorem detectIfNeeded_config (a k : Nat) (s : State) : (detectIfNeeded a k s).config = s.config := by
  unfold detectIfNeeded; split <;> simp
@[simp] theorem detectIfNeeded_cfg (a k : Nat) (s : State) : (detectIfNeeded a k s).cfg = s.cfg := by
  unfold detectIfNeeded; split <;> simp
@[simp] theorem detectIfNeeded_cap (a k : Nat) (s : State) : (detectIfNeeded a k s).cap = s.cap := by
  unfold detectIfNeeded; split <;> simp
@[simp] theorem detectIfNeeded_wr (a k : Nat) (s : State) : (detectIfNeeded a k s).wr = s.wr := by
  unfold detectIfNeeded; split <;> simp
@[simp] theorem detectIfNeeded_rd (a k : Nat) (s : State) : (detectIfNeeded a k s).rd = s.rd := by
  unfold detectIfNeeded; split <;> simp
@[simp] theorem detectIfNeeded_silence (a k : Nat) (s : State) : (detectIfNeeded a k s).silence = s.silence := by
  unfold detectIfNeeded; split <;> simp
@[simp] theorem detectIfNeeded_ring (a k : Nat) (s : State) : (detectIfNeeded a k s).ring = s.ring := by
  unfold detectIfNeeded; split <;> simp
@[simp] theorem detectIfNeeded_hint (a k : Nat) (s : State) : (detectIfNeeded a k s).hint = s.hint := by
  unfold detectIfNeeded; split <;> simp
@[simp] theorem detectIfNeeded_rvalP (a k : Nat) (s : State) : (detectIfNeeded a k s).rvalP = s.rvalP := by
  unfold detectIfNeeded; split <;> simp
@[simp] theorem detectIfNeeded_rvalC (a k : Nat) (s : State) : (detectIfNeeded a k s).rvalC = s.rvalC := by
  unfold detectIfNeeded; split <;> simp
@[simp] theorem detectIfNeeded_rvalK (a k : Nat) (s : State) : (detectIfNeeded a k s).rvalK = s.rvalK := by
  unfold detectIfNeeded; split <;> simp
@[simp] theorem detectIfNeeded_rokP (a k : Nat) (s : State) : (detectIfNeeded a k s).rokP = s.rokP := by
  unfold detectIfNeeded; split <;> simp
@[simp] theorem detectIfNeeded_rokC (a k : Nat) (s : State) : (detectIfNeeded a k s).rokC = s.rokC := by
  unfold detectIfNeeded; split <;> simp
@[simp] theorem detectIfNeeded_rokK (a k : Nat) (s : State) : (detectIfNeeded a k s).rokK = s.rokK := by
  unfold detectIfNeeded; split <;> simp
@[simp] theorem detectIfNeeded_busyP (a k : Nat) (s : State) : (detectIfNeeded a k s).busyP = s.busyP := by
  unfold detectIfNeeded; split <;> simp
@[simp] theorem detectIfNeeded_busyC (a k : Nat) (s : State) : (detectIfNeeded a k s).busyC = s.busyC := by
  unfold detectIfNeeded; split <;> simp
@[simp] theorem detectIfNeeded_latchP (a k : Nat) (s : State) : (detectIfNeeded a k s).latchP = s.latchP := by
  unfold detectIfNeeded; split <;> simp
@[simp] theorem detectIfNeeded_latchC (a k : Nat) (s : State) : (detectIfNeeded a k s).latchC = s.latchC := by
  unfold detectIfNeeded; split <;> simp
@[simp] theorem detectIfNeeded_snapP (a k : Nat) (s : State) : (detectIfNeeded a k s).snapP = s.snapP := by
  unfold detectIfNeeded; split <;> simp
@[simp] theorem detectIfNeeded_snapC (a k : Nat) (s : State) : (detectIfNeeded a k s).snapC = s.snapC := by
  unfold detectIfNeeded; split <;> simp
@[simp] theorem detectIfNeeded_wgb (a k : Nat) (s : State) : (detectIfNeeded a k s).wgb = s.wgb := by
  unfold detectIfNeeded; split <;> simp
@[simp] theorem detectIfNeeded_wgl (a k : Nat) (s : State) : (detectIfNeeded a k s).wgl = s.wgl := by
  unfold detectIfNeeded; split <;> simp
@[simp] theorem detectIfNeeded_rgb (a k : Nat) (s : State) : (detectIfNeeded a k s).rgb = s.rgb := by
  unfold detectIfNeeded; split <;> simp
@[simp] theorem detectIfNeeded_rgl (a k : Nat) (s : State) : (detectIfNeeded a k s).rgl = s.rgl := by
  unfold detectIfNeeded; split <;> simp
@[simp] theorem detectIfNeeded_scratch (a k : Nat) (s : State) : (detectIfNeeded a k s).scratch = s.scratch := by
  unfold detectIfNeeded; split <;> simp
@[simp] theorem detectIfNeeded_fault (a k : Nat) (s : State) : (detectIfNeeded a k s).fault = s.fault := by
  unfold detectIfNeeded; split <;> simp
@[simp] theorem detectIfNeeded_fcode (a k : Nat) (s : State) : (detectIfNeeded a k s).fcode = s.fcode := by
  unfold detectIfNeeded; split <;> simp
@[simp] theorem detectIfNeeded_fport (a k : Nat) (s : State) : (detectIfNeeded a k s).fport = s.fport := by
  unfold detectIfNeeded; split <;> simp
@[simp] theorem detectIfNeeded_fdesc (a k : Nat) (s : State) : (detectIfNeeded a k s).fdesc = s.fdesc := by
  unfold detectIfNeeded; split <;> simp
@[simp] theorem detectIfNeeded_hmem (a k : Nat) (s : State) : (detectIfNeeded a k s).hmem = s.hmem := by
  unfold detectIfNeeded; split <;> simp
@[simp] theorem detectIfNeeded_offersP (a k : Nat) (s : State) : (detectIfNeeded a k s).offersP = s.offersP := by
  unfold detectIfNeeded; split <;> simp
@[simp] theorem detectIfNeeded_offersC (a k : Nat) (s : State) : (detectIfNeeded a k s).offersC = s.offersC := by
  unfold detectIfNeeded; split <;> simp
@[simp] theorem detectIfNeeded_offersK (a k : Nat) (s : State) : (detectIfNeeded a k s).offersK = s.offersK := by
  unfold detectIfNeeded; split <;> simp
@[simp] theorem detectIfNeeded_turns (a k : Nat) (s : State) : (detectIfNeeded a k s).turns = s.turns := by
  unfold detectIfNeeded; split <;> simp
@[simp] theorem detectIfNeeded_active (a k : Nat) (s : State) : (detectIfNeeded a k s).active = s.active := by
  unfold detectIfNeeded; split <;> simp

end Sys2Proof.Machine
end

