-- ==== Sys2Proof/Machine/Assembler.lean ====
section
/-! DEFINITION. The assembly notation of 30_encoding.md R101, read as a command and its optional port. The machine does
not use it: a descriptor reaches a port as bits. -/

namespace Sys2Proof.Machine

/-- A line without the spaces and tabs around it. -/
def trimBlanks (l : List Char) : List Char :=
  let blank := fun c => c = ' ' || c = '\t'
  ((l.dropWhile blank).reverse.dropWhile blank).reverse

/-- The value of a digit in base 16; none for another character. -/
def digitValue (c : Char) : Option Nat :=
  let n := c.toNat
  if 48 ≤ n ∧ n ≤ 57 then some (n - 48)
  else if 97 ≤ n ∧ n ≤ 102 then some (n - 87)
  else if 65 ≤ n ∧ n ≤ 70 then some (n - 55)
  else none

/-- The digits `l` in a base, after a prefix worth `acc`. -/
def digitsValue (base acc : Nat) (l : List Char) : Option Nat :=
  match l with
  | [] => some acc
  | c :: rest =>
    match digitValue c with
    | none => none
    | some d => if d < base then digitsValue base (base * acc + d) rest else none

/-- A number: "decimal or `0x` hexadecimal". -/
def numberValue (l : List Char) : Option Nat :=
  match l with
  | [] => none
  | ['0', 'x'] => none
  | '0' :: 'x' :: digits => digitsValue 16 0 digits
  | digits => digitsValue 10 0 digits

/-- A number that fits in `w` bits. -/
def fieldValue (w : Nat) (l : List Char) : Option (BitVec w) :=
  match numberValue l with
  | none => none
  | some n => if n < 2 ^ w then some (BitVec.ofNat w n) else none

/-- The operands of a line, separated by commas. -/
def operandsOf (l : List Char) : List (List Char) :=
  if trimBlanks l = [] then [] else (l.splitOn ',').map trimBlanks

/-- A command with one `LEN` operand. -/
def lenForm (f : Word → Instr) (ops : List (List Char)) : Option Instr :=
  match ops with
  | [len] => (fieldValue 32 len).map f
  | _ => none

/-- A command with an `ADDR` and a `LEN` operand. -/
def bufferForm (f : Addr → Word → Instr) (ops : List (List Char)) : Option Instr :=
  match ops with
  | [addr, len] => (fieldValue 64 addr).bind fun a => (fieldValue 32 len).map (f a)
  | _ => none

/-- A command without operands. -/
def plainForm (i : Instr) (ops : List (List Char)) : Option Instr := if ops = [] then some i else none

/-- PUSHDSD's operands: "with optional `, br` and `, bs`". -/
def dsdForm (ops : List (List Char)) : Option Instr :=
  match ops with
  | addr :: len :: ch :: options =>
    (fieldValue 64 addr).bind fun a => (fieldValue 32 len).bind fun n => (fieldValue 8 ch).bind fun c =>
      if options = [] then some (.pushdsd a n c false false)
      else if options = [['b', 'r']] then some (.pushdsd a n c true false)
      else if options = [['b', 's']] then some (.pushdsd a n c false true)
      else if options = [['b', 'r'], ['b', 's']] then some (.pushdsd a n c true true)
      else none
  | _ => none

/-- SETHINT's operand, a word. -/
def hintForm (ops : List (List Char)) : Option Instr :=
  if ops = [['n', 'o', 'n', 'e']] then some (.sethint 0#8)
  else if ops = [['l', 's', 'b']] then some (.sethint 1#8)
  else if ops = [['m', 's', 'b']] then some (.sethint 2#8)
  else none

/-- The command that a mnemonic and its operands stand for, one line of the table of R101 each. -/
def assembleCommand (name : List Char) (ops : List (List Char)) : Option Instr :=
  if name = "RESIZE".toList then
    match ops with
    | [len, silence] => (fieldValue 32 len).bind fun n => (fieldValue 8 silence).map (.resize n)
    | _ => none
  else if name = "CLEAR".toList then plainForm .clear ops
  else if name = "FILLSIL".toList then plainForm .fillsil ops
  else if name = "SETHINT".toList then hintForm ops
  else if name = "AVAIL".toList then plainForm .avail ops
  else if name = "FREE".toList then plainForm .free ops
  else if name = "PUSH".toList then bufferForm .push ops
  else if name = "PUSH24".toList then bufferForm .push24 ops
  else if name = "PUSH16TO32".toList then bufferForm .push16to32 ops
  else if name = "PUSHDSD".toList then dsdForm ops
  else if name = "WREGION".toList then lenForm .wregion ops
  else if name = "WINWR".toList then
    match ops with
    | [off, byte] => (fieldValue 64 off).bind fun o => (fieldValue 8 byte).map (.winwr o)
    | _ => none
  else if name = "COMMITW".toList then lenForm .commitw ops
  else if name = "POP".toList then bufferForm .pop ops
  else if name = "RREGION".toList then lenForm .rregion ops
  else if name = "WINRD".toList then
    match ops with
    | [off] => (fieldValue 64 off).map .winrd
    | _ => none
  else if name = "ADVANCER".toList then lenForm .advancer ops
  else none

/-- The port prefix of a line, and what follows it. -/
def portPrefix (l : List Char) : Option Port × List Char :=
  match l with
  | 'P' :: ':' :: rest => (some .P, trimBlanks rest)
  | 'C' :: ':' :: rest => (some .C, trimBlanks rest)
  | 'K' :: ':' :: rest => (some .K, trimBlanks rest)
  | _ => (none, l)

/-- One line of assembly: the port it is prefixed with, if any, and its command; none if it is no line of R101. -/
def assembleLine (line : List Char) : Option (Option Port × Instr) :=
  let body := portPrefix (trimBlanks (line.takeWhile (· ≠ ';')))
  let name := body.2.takeWhile fun c => c ≠ ' ' && c ≠ '\t'
  (assembleCommand name (operandsOf (body.2.drop name.length))).map fun i => (body.1, i)

end Sys2Proof.Machine
end

