-- ==== Sys2Proof/Tests/Slice0.lean ====
section
/-! SUPPORT. Tests of single steps, their expected results taken from 95_test_vectors.md and the worked examples of the
rules, and for every statement with hypotheses a concrete input that meets them. -/

namespace Sys2Proof.Tests

open Sys2Proof.Machine

/-! ### Helpers -/

/-- A configured block of capacity `cap` with the given cursors, both sides up to date, on the vectors' parameters. -/
def block (cap wr rd : Nat) : State :=
  { State.reset with
    cfg := true, cap := BitVec.ofNat 32 cap, wr := BitVec.ofNat 32 wr, rd := BitVec.ofNat 32 rd,
    snapP := BitVec.ofNat 32 rd, snapC := BitVec.ofNat 32 wr }

/-- The block with a P command at its COMPLETE. -/
def onP (s : State) : State := { s with active := .P, busyP := true }

/-- The block with a C command at its COMPLETE. -/
def onC (s : State) : State := { s with active := .C, busyC := true }

/-- The bytes stored in host memory from an address on. -/
def host (a : Nat) (bs : List Byte) (s : State) : State := { s with hmem := Memory.writeList hostFill a bs s.hmem }

/-- What a question about the next state is answered, if there is one. -/
def next {α : Type} (o : Host.Outcome State Fault Refusal) (f : State → α) : Option α :=
  match o with
  | .next t => some (f t)
  | .fault _ => none
  | .refused _ => none

/-! ### Well-formedness, decoding, encoding -/

/-- R96: the one ill-formed term. -/
theorem test_wellFormed_refuses_hint_3 : (Instr.sethint 3#8).wellFormed = false := by decide
theorem test_wellFormed_accepts_hint_2 : (Instr.sethint 2#8).wellFormed = true := by decide

theorem test_decode_resize : decode 0x0000000000000000000003E800008001#128 = .ok (.resize 1000#32 0x80#8) := by
  rfl
theorem test_decode_clear : decode 0x00000000000000000000000000000002#128 = .ok .clear := by rfl
theorem test_decode_fillsil : decode 0x00000000000000000000000000000003#128 = .ok .fillsil := by rfl
theorem test_decode_sethint : decode 0x00000000000000000000000000000204#128 = .ok (.sethint 2#8) := by rfl
theorem test_decode_avail : decode 0x00000000000000000000000000000008#128 = .ok .avail := by rfl
theorem test_decode_free : decode 0x00000000000000000000000000000009#128 = .ok .free := by rfl
theorem test_decode_push : decode 0x00000000000010000000000600000010#128 = .ok (.push 0x1000#64 6#32) := by rfl
theorem test_decode_push24 : decode 0x00000000000011000000000800000011#128 = .ok (.push24 0x1100#64 8#32) := by rfl
theorem test_decode_push16to32 :
    decode 0x00000000000011000000000500000012#128 = .ok (.push16to32 0x1100#64 5#32) := by rfl
theorem test_decode_pushdsd_br :
    decode 0x00000000000010000000001000010213#128 = .ok (.pushdsd 0x1000#64 16#32 2#8 true false) := by rfl
theorem test_decode_pushdsd_bs :
    decode 0x00000000000010000000000400020113#128 = .ok (.pushdsd 0x1000#64 4#32 1#8 false true) := by rfl
theorem test_decode_wregion : decode 0x00000000000000000000000600000014#128 = .ok (.wregion 6#32) := by rfl
theorem test_decode_winwr : decode 0x000000000000000D0000000000005A15#128 = .ok (.winwr 13#64 0x5A#8) := by rfl
theorem test_decode_commitw : decode 0x00000000000000000000000400000016#128 = .ok (.commitw 4#32) := by rfl
theorem test_decode_pop : decode 0x00000000000020000000000400000020#128 = .ok (.pop 0x2000#64 4#32) := by rfl
theorem test_decode_rregion : decode 0x00000000000000000000000A00000021#128 = .ok (.rregion 10#32) := by rfl
theorem test_decode_winrd : decode 0x000000000000000F0000000000000022#128 = .ok (.winrd 15#64) := by rfl
theorem test_decode_advancer : decode 0x00000000000000000000000800000023#128 = .ok (.advancer 8#32) := by rfl

/-- V-FLT-1, V-FLT-2, V-FLT-3, V-CTL-12. -/
theorem test_decode_illegal :
    decode 0x00000000000000000000000000000005#128 = .error .unassignedOpcode ∧
    decode 0x00000000000000000000000100000002#128 = .error .unusedField ∧
    decode 0x00000000000010000000000100040010#128 = .error .reservedField ∧
    decode 0x00000000000000000000000000000304#128 = .error .badHint := ⟨rfl, rfl, rfl, rfl⟩

/-- R100's worked example: program P1, descriptor 2 as bytes. -/
theorem test_descriptor_bytes :
    descBytes (encode (.push 0x1000#64 6#32)) =
      [0x10#8, 0#8, 0#8, 0#8, 6#8, 0#8, 0#8, 0#8, 0#8, 0x10#8, 0#8, 0#8, 0#8, 0#8, 0#8, 0#8] := by decide

theorem test_decodeTableWord_push :
    decodeTableWord 128 0x00000000000010000000000600000010 = some (.push 0x1000#64 6#32) := by decide

/-- A table row given with 32 bits: LEN and ADDR are zero. -/
theorem test_decodeTableWord_short : decodeTableWord 32 0x10 = some (.push 0#64 0#32) := by decide

theorem test_withFetchWord_runs_resize :
    next (step (State.reset.withFetchWord 128 0x00000000000000000000000800000001))
      (fun t => (t.cap, t.cfg, t.rokK)) = some (8#32, true, true) := by decide

/-- R271: after reset every command but RESIZE and SETHINT faults NOT_CONFIGURED. -/
theorem test_withFetchWord_runs_pop :
    next (step (State.reset.withFetchWord 128 0x00000000000020000000000400000020))
      (fun t => (t.fault, t.fcode, t.fport, t.busyC)) = some (true, 0x03#8, 1#2, true) := by decide

/-! ### Ring control -/

/-- V-CTL-1. -/
theorem test_resize_rounds_up :
    next (exec (.resize 1000#32 0x80#8) State.reset) (fun t => (t.cap, t.cfg, ringByte t 1023, t.rvalK, t.rokK)) =
      some (1024#32, true, 0x80#8, 0#32, true) := by decide

/-- V-CTL-5. -/
theorem test_resize_beyond_max :
    next (exec (.resize 0x80000001#32 0#8) State.reset) (fun t => (t.fault, t.fcode, t.fport, t.cfg)) =
      some (true, 0x05#8, 2#2, false) := by decide

/-- V-CTL-8. -/
theorem test_clear_keeps_ring :
    next (exec .clear { block 16 10 4 with ring := [(4, 7#8)], hint := some .msb, mode := .msb, conf := true })
      (fun t => (t.wr, t.rd, t.hint, t.mode, ringByte t 4)) = some (0#32, 0#32, none, .unknown, 7#8) := by decide

/-- V-CTL-10. -/
theorem test_clear_needs_quiescence :
    next (exec .clear { block 8 0 0 with busyP := true }) (fun t => (t.fcode, t.fport, t.busyP)) =
      some (0x04#8, 2#2, true) := by decide

/-- V-CTL-9. -/
theorem test_fillsil_fills :
    next (exec .fillsil { block 8 3 0 with silence := 0x69#8, ring := [(1, 5#8)] })
      (fun t => (ringByte t 0, ringByte t 1, t.wr, t.rd)) = some (0x69#8, 0x69#8, 3#32, 0#32) := by decide

/-- V-FLT-6: the configuration check comes before the quiescence check. -/
theorem test_fillsil_check_order :
    next (exec .fillsil { State.reset with busyP := true }) (fun t => t.fcode) = some 0x03#8 := by decide

/-- R122's example. -/
theorem test_avail_example :
    next (exec .avail (block 1024 900 800)) (fun t => (t.rvalK, t.rokK)) = some (100#32, true) := by decide

/-- V-CTL-13: AVAIL reads the live cursors, not the snapshot. -/
theorem test_avail_reads_live_cursors :
    next (exec .avail (onP { block 16 10 4 with snapP := 0#32 })) (fun t => (t.rvalP, t.rokP, t.busyP)) =
      some (6#32, true, false) := by decide

/-- R123's example. -/
theorem test_free_example :
    next (exec .free (block 1024 900 800)) (fun t => (t.rvalK, t.rokK)) = some (923#32, true) := by decide

/-- V-CTL-2: a ring of one byte holds none. -/
theorem test_free_capacity_one :
    next (exec .free (onC (block 1 0 0))) (fun t => (t.rvalC, t.rokC)) = some (0#32, true) := by decide

/-! ### Zero-copy -/

/-- V-ZC-1. -/
theorem test_wregion_fits :
    next (exec (.wregion 4#32) (onP (block 16 12 4))) (fun t => (t.rvalP, t.rokP, t.wgb, t.wgl)) =
      some (12#32, true, 12#32, 4#32) := by decide
theorem test_wregion_would_wrap :
    next (exec (.wregion 5#32) (onP { block 16 12 4 with wgb := 12#32, wgl := 2#32 }))
      (fun t => (t.rvalP, t.rokP, t.wgb, t.wgl)) = some (0#32, false, 0#32, 0#32) := by decide

/-- V-ZC-2. -/
theorem test_winwr_inside :
    next (exec (.winwr 13#64 0x5A#8) (onP { block 16 12 4 with wgb := 12#32, wgl := 4#32 }))
      (fun t => (ringByte t 13, t.wr, t.wgl)) = some (0x5A#8, 12#32, 4#32) := by decide
theorem test_winwr_outside :
    next (exec (.winwr 16#64 0#8) (onP { block 16 12 4 with wgb := 12#32, wgl := 4#32 }))
      (fun t => (t.fcode, t.busyP)) = some (0x07#8, true) := by decide

/-- V-ZC-3, V-ZC-6. -/
theorem test_commitw_reaches_end :
    next (exec (.commitw 4#32) (onP { block 16 12 4 with wgb := 12#32, wgl := 4#32 }))
      (fun t => (t.wr, t.wgb, t.wgl)) = some (0#32, 0#32, 0#32) := by decide
theorem test_commitw_overrun :
    next (exec (.commitw 5#32) (onP { block 16 0 0 with wgl := 4#32 })) (fun t => (t.fcode, t.wr, t.wgl)) =
      some (0x08#8, 0#32, 4#32) := by decide

/-- V-ZC-9. -/
theorem test_rregion_fits :
    next (exec (.rregion 4#32) (onC (block 16 2 12))) (fun t => (t.rvalC, t.rokC, t.rgb, t.rgl)) =
      some (12#32, true, 12#32, 4#32) := by decide
theorem test_rregion_would_wrap :
    next (exec (.rregion 6#32) (onC (block 16 2 12))) (fun t => (t.rvalC, t.rokC, t.rgl)) =
      some (0#32, false, 0#32) := by decide

/-- V-ZC-10. -/
theorem test_winrd_inside :
    next (exec (.winrd 14#64) (onC { block 16 2 12 with ring := [(14, 0xC3#8)], rgb := 12#32, rgl := 4#32 }))
      (fun t => (t.rvalC, t.rokC)) = some (0xC3#32, true) := by decide
theorem test_winrd_below :
    next (exec (.winrd 11#64) (onC { block 16 2 12 with rgb := 12#32, rgl := 4#32 })) (fun t => t.fcode) =
      some 0x07#8 := by decide

/-- V-ZC-15, V-ZC-11. -/
theorem test_advancer_reaches_end :
    next (exec (.advancer 4#32) (onC { block 16 2 12 with rgb := 12#32, rgl := 4#32 })) (fun t => (t.rd, t.rgl)) =
      some (0#32, 0#32) := by decide
theorem test_advancer_overrun :
    next (exec (.advancer 5#32) (onC { block 16 6 0 with rgl := 4#32 })) (fun t => (t.fcode, t.rd, t.rgl)) =
      some (0x09#8, 0#32, 4#32) := by decide

/-! ### Raw transfers -/

/-- V-RAW-1. -/
theorem test_push_wraps :
    next (exec (.push 0x1000#64 5#32) (onP (host 0x1000 [0x10#8, 0x11#8, 0x12#8, 0x13#8, 0x14#8] (block 8 6 3))))
      (fun t => (t.rvalP, t.wr, [6, 7, 0, 1].map (ringByte t))) =
      some (4#32, 2#32, [0x10#8, 0x11#8, 0x12#8, 0x13#8]) := by decide

/-- V-RAW-6. -/
theorem test_push_inaccessible :
    next (exec (.push 0x1000#64 5#32)
        (onP { block 8 0 0 with config := { Config.vectors with hostHoles := [(0x1002, 1)] } }))
      (fun t => (t.fcode, t.fport, t.fdesc, t.wr)) =
      some (0x0A#8, 0#2, 0x00000000000010000000000500000010#128, 0#32) := by decide

/-- V-RAW-2. -/
theorem test_pop_wraps :
    next (exec (.pop 0x2000#64 10#32)
        (onC { block 8 2 3 with ring := [(0, 0x12#8), (1, 0x13#8), (3, 0xA#8), (6, 0x10#8), (7, 0x11#8)] }))
      (fun t => (t.rvalC, t.rd, memRead t 0x2000 8)) =
      some (7#32, 2#32, [0xA#8, 0#8, 0#8, 0x10#8, 0x11#8, 0x12#8, 0x13#8, 0#8]) := by decide

/-- V-MM-2, step 4: the consumer gets what it saw at ISSUE. -/
theorem test_pop_uses_snapshot :
    next (exec (.pop 0x2000#64 3#32)
        (onC { block 4 3 0 with snapC := 2#32, ring := [(0, 0xA0#8), (1, 0xA1#8), (2, 0xFF#8)] }))
      (fun t => (t.rvalC, t.rd, memRead t 0x2000 3)) = some (2#32, 2#32, [0xA0#8, 0xA1#8, 0#8]) := by decide

/-! ### Format pushes -/

/-- V-CTL-7, V-CTL-12. -/
theorem test_sethint_unconfigured :
    next (exec (.sethint 1#8) { State.reset with conf := true, defcnt := 9#32 })
      (fun t => (t.hint, t.mode, t.conf, t.defcnt, t.cfg)) = some (some .lsb, .lsb, false, 0#32, false) := by decide
theorem test_sethint_illegal : next (exec (.sethint 3#8) State.reset) (fun t => t.fcode) = some 0x01#8 := by decide

/-- V-FMT-9. -/
theorem test_push24_straddles_wrap :
    next (exec (.push24 0x1000#64 8#32)
        (onP (host 0x1000 [0x11#8, 0x22#8, 0x33#8, 0#8, 0x44#8, 0x55#8, 0x66#8, 0#8] (block 8 6 6))))
      (fun t => (t.rvalP, t.wr, t.mode, t.conf, [6, 7, 0, 1, 2, 3].map (ringByte t))) =
      some (8#32, 4#32, .lsb, true, [0x11#8, 0x22#8, 0x33#8, 0x44#8, 0x55#8, 0x66#8]) := by decide

/-- Program P2, step 4: forced resolution to the hint. -/
theorem test_push24_forced_resolution :
    next (exec (.push24 0x1000#64 8#32)
        (onP { block 64 9 0 with
          config := { Config.vectors with deferThreshold := 4 }, hint := some .msb, mode := .deferred, defcnt := 3#32 }))
      (fun t => (t.rvalP, t.wr, t.mode, t.conf, t.defcnt)) = some (8#32, 15#32, .msb, true, 5#32) := by decide

/-- V-FMT-10. -/
theorem test_push16to32_odd_length :
    next (exec (.push16to32 0x1000#64 5#32) (onP (host 0x1000 [0x34#8, 0x12#8, 1#8, 0x80#8, 0xAB#8] (block 64 0 0))))
      (fun t => (t.rvalP, (List.range 9).map (ringByte t))) =
      some (4#32, [0#8, 0#8, 0x34#8, 0x12#8, 0#8, 0#8, 1#8, 0x80#8, 0#8]) := by decide

/-- V-FMT-12. -/
theorem test_push16to32_clamped :
    next (exec (.push16to32 0x1000#64 4#32) (onP (block 8 0 0))) (fun t => (t.rvalP, t.wr)) =
      some (2#32, 4#32) := by decide

/-- V-DSD-8. -/
theorem test_pushdsd_clamped :
    next (exec (.pushdsd 0x1000#64 16#32 2#8 false false)
        (onP (host 0x1000 ((List.range 16).map fun i => BitVec.ofNat 8 (0xA0 + i)) (block 16 6 0))))
      (fun t => (t.rvalP, t.wr, (List.range 8).map fun i => ringByte t (6 + i))) =
      some (8#32, 14#32, [0xA0#8, 0xA1#8, 0xA2#8, 0xA3#8, 0xA8#8, 0xA9#8, 0xAA#8, 0xAB#8]) := by decide

/-- V-DSD-3: both options. -/
theorem test_pushdsd_both_options :
    next (exec (.pushdsd 0x1000#64 4#32 1#8 true true) (onP (host 0x1000 [1#8, 2#8, 4#8, 8#8] (block 16 0 0))))
      (fun t => (List.range 4).map (ringByte t)) = some [0x10#8, 0x20#8, 0x40#8, 0x80#8] := by decide

/-! ### Steps -/

/-- Program P5, step 2: the COMPLETE of a PUSH on C faults and stays in flight; the block is then halted. -/
theorem test_step_port_violation :
    next (step { block 16 0 0 with turns := [.port .C], busyC := true, latchC := encode (.push 0x1000#64 1#32) })
      (fun t => (t.fault, t.fcode, t.fport, t.fdesc, t.busyC)) =
      some (true, 0x02#8, 1#2, 0x00000000000010000000000100000010#128, true) := by decide

theorem test_step_halted :
    (match step { block 16 0 0 with fault := true, turns := [.port .K], offersK := [encode .avail] } with
      | .fault .halted => true
      | .next _ => false
      | .refused _ => false) = true := by decide

/-- R42. -/
theorem test_step_issue :
    next (step { block 16 5 2 with turns := [.port .P], offersP := [encode .free], snapP := 0#32 })
      (fun t => (t.busyP, t.snapP, t.latchP, t.offersP)) = some (true, 2#32, encode .free, []) := by decide

/-- R270. -/
theorem test_step_reset :
    next (step { block 16 5 2 with turns := [.reset], fault := true, fcode := 1#8, hmem := [(7, 7#8)] })
      (fun t => (t.fault, t.fcode, t.cfg, t.hmem)) = some (false, 0#8, false, [(7, 7#8)]) := by decide

/-! ### Assembly notation (R101): lines of programs P1, P4 and P3 with their descriptors -/

theorem test_assemble_push :
    assembleLine "P: PUSH 0x1000, 6 ; retry".toList = some (some .P, .push 0x1000#64 6#32) := by decide
theorem test_assemble_pushdsd :
    (assembleLine "P: PUSHDSD 0x1000, 16, 2, br".toList).map (fun r => encode r.2) =
      some 0x00000000000010000000001000010213#128 := by decide
theorem test_assemble_sethint : assembleLine "SETHINT msb".toList = some (none, .sethint 2#8) := by decide
theorem test_assemble_refuses_wide_byte : assembleLine "P: WINWR 12, 0x100".toList = none := by decide

end Sys2Proof.Tests
end

