-- ==== Sys2Proof/Tests/Witnesses.lean ====
section
/-! SUPPORT. For every statement of Certificates/Slice0 with hypotheses, a concrete state and operands that meet them,
one for each clause at a boundary of its range. -/

namespace Sys2Proof.Tests

open Sys2Proof.Machine

/-! ### A state with everything outstanding -/

/-- A configured block of capacity 8 that meets the invariant, with a PUSH and a POP in flight, both on old snapshots,
and both grants outstanding. -/
def live : State :=
  { block 8 6 3 with
    busyP := true, latchP := encode (.push 0x1000#64 5#32), snapP := 2#32
    busyC := true, latchC := encode (.pop 0x2000#64 10#32), snapC := 5#32
    wgb := 6#32, wgl := 2#32, rgb := 3#32, rgl := 3#32
    ring := [(3, 0x0A#8), (4, 0x0B#8)], hmem := [(0x1000, 0x10#8), (0x1001, 0x11#8)]
    turns := [.port .P], active := .P }

/-- The same with nothing in flight and K active. -/
def quiet : State := { live with busyP := false, busyC := false, turns := [.port .K], active := .K }

/-- The same with C active. -/
def liveC : State := { live with turns := [.port .C], active := .C }

/-- The block after a command fault on K. -/
def dead : State := { live with fault := true, fcode := 4#8, fport := 2#2, fdesc := encode .clear }

theorem live_ringInv : RingInv live :=
  show (∃ j, j ≤ 31 ∧ 8 = 2 ^ j) ∧ _ ∧ _ from ⟨⟨3, by decide, by decide⟩, by decide, by decide⟩

theorem live_storesInv : StoresInv live := by unfold StoresInv; decide

theorem live_alignInv : AlignInv live := by unfold AlignInv; decide

theorem live_inv : Inv live where
  ring := live_ringInv
  stores := live_storesInv
  align := live_alignInv
  grants := by unfold GrantInv; decide
  snaps := by unfold SnapInv; decide
  record := by unfold FaultInv; decide

theorem liveC_inv : Inv liveC :=
  ⟨live_inv.ring, live_inv.stores, live_inv.align, live_inv.grants, live_inv.snaps, live_inv.record⟩

theorem quiet_inv : Inv quiet where
  ring := live_inv.ring
  stores := live_inv.stores
  align := live_inv.align
  grants := live_inv.grants
  snaps := by unfold SnapInv; decide
  record := by unfold FaultInv; decide

theorem reset_inv : Inv State.reset where
  ring := by unfold RingInv; decide
  stores := by unfold StoresInv; decide
  align := by unfold AlignInv; decide
  grants := by unfold GrantInv; decide
  snaps := by unfold SnapInv; decide
  record := by unfold FaultInv; decide

/-- A true answer about the next state is a next state with that property. -/
theorem exists_next {o : Host.Outcome State Fault Refusal} {p : State → Prop} [DecidablePred p]
    (h : next o (fun t => decide (p t)) = some true) : ∃ t, o = .next t ∧ p t := by
  cases o with
  | next t => exact ⟨t, rfl, by simpa [next] using h⟩
  | fault r => simp [next] at h
  | refused r => simp [next] at h

/-! ### Reset, encoding, steps -/

theorem witness_ResetSetsStatedValues : ({ dead with turns := [.reset] } : State).turns = .reset :: [] := rfl

theorem witness_StepKeepsInvariant : Inv live ∧ ∃ t, step live = .next t := ⟨live_inv, _, rfl⟩

theorem witness_DecodeOfEncode :
    (Instr.sethint 2#8).wellFormed = true ∧
      (Instr.pushdsd 0xFFFFFFFFFFFFFFFF#64 0xFFFFFFFF#32 0xFF#8 true true).wellFormed = true := by decide

theorem witness_EncodeOfDecode :
    decode 0xFFFFFFFFFFFFFFFFFFFFFFFF0003FF13#128 =
      .ok (.pushdsd 0xFFFFFFFFFFFFFFFF#64 0xFFFFFFFF#32 0xFF#8 true true) := rfl

theorem witness_StepRunsDecodedInstruction :
    (live.fault = false ∧ live.turns = .port .P :: [] ∧ pending .P (encode (.push 0x1000#64 5#32)) live) ∧
    (liveC.fault = false ∧ liveC.turns = .port .C :: [] ∧ pending .C (encode (.pop 0x2000#64 10#32)) liveC) ∧
    (({ quiet with offersK := [encode .free] } : State).turns = .port .K :: [] ∧
      pending .K (encode .free) { quiet with offersK := [encode .free] }) ∧
    decode (encode (.push 0x1000#64 5#32)) = .ok (.push 0x1000#64 5#32) ∧
    decode (encode (.pop 0x2000#64 10#32)) = .ok (.pop 0x2000#64 10#32) ∧ decode (encode .free) = .ok .free :=
  ⟨⟨rfl, rfl, rfl, rfl⟩, ⟨rfl, rfl, rfl, rfl⟩, ⟨rfl, rfl⟩, rfl, rfl, rfl⟩

theorem witness_UnassignedOpcodeFaults :
    live.fault = false ∧ live.turns = .port .P :: [] ∧ pending .P 0x17#128 { live with latchP := 0x17#128 } ∧
      pending .K 0x00#128 { quiet with offersK := [0x00#128] } ∧
      (descOpc 0x17#128).toNat ∉ assignedOpcodes ∧ (descOpc 0x00#128).toNat ∉ assignedOpcodes :=
  ⟨rfl, rfl, ⟨rfl, rfl⟩, rfl, by decide, by decide⟩

theorem witness_ReservedOrUnusedFieldFaults :
    pending .P 0x00000000000010000000000100040010#128
        { live with latchP := 0x00000000000010000000000100040010#128 } ∧
      descRsv 0x00000000000010000000000100040010#128 ≠ 0#14 ∧
      UnusedFieldNonzero 0x00000000000000000000000100000002#128 ∧
      UnusedFieldNonzero 0x00000000000000000000000000000108#128 ∧
      UnusedFieldNonzero 0x00000000000010000000000100010010#128 ∧
      UnusedFieldNonzero 0x00000000000000010000000100000023#128 :=
  ⟨⟨rfl, rfl⟩, by decide, by unfold UnusedFieldNonzero; decide, by unfold UnusedFieldNonzero; decide,
    by unfold UnusedFieldNonzero; decide, by unfold UnusedFieldNonzero; decide⟩

theorem witness_OnlyHintValueIsRestricted :
    (pending .K 0x304#128 { quiet with offersK := [0x304#128] } ∧ (descOpc 0x304#128).toNat = 0x04 ∧
      2 < (descImm 0x304#128).toNat) ∧
    ((descOpc 0x204#128).toNat ∈ assignedOpcodes ∧ descRsv 0x204#128 = 0#14 ∧ ¬ UnusedFieldNonzero 0x204#128 ∧
      (descImm 0x204#128).toNat ≤ 2) :=
  ⟨⟨rfl, by decide, by decide⟩, by decide, by decide, by unfold UnusedFieldNonzero; decide, by decide⟩

theorem witness_WrongPortFaults :
    ¬ PortAllowed .C (opcodeOf (.push 0x1000#64 1#32)).toNat ∧ ¬ PortAllowed .P (opcodeOf (.winrd 0#64)).toNat ∧
      ¬ PortAllowed .K (opcodeOf (.push 0x1000#64 1#32)).toNat ∧ ¬ PortAllowed .P (opcodeOf (.sethint 2#8)).toNat :=
  ⟨by unfold PortAllowed; decide, by unfold PortAllowed; decide, by unfold PortAllowed; decide,
    by unfold PortAllowed; decide⟩

theorem witness_ConfiguredFlagLife :
    (PortAllowed State.reset.active (opcodeOf .avail).toNat ∧ State.reset.cfg = false) ∧
    (∃ t, step { live with turns := [.reset] } = .next t ∧ t.cfg = false) ∧
    (∃ t, step { State.reset with turns := [.port .K], offersK := [encode (.resize 1#32 0#8)] } = .next t ∧
      t.cfg = true) ∧
    (∃ t, exec (.resize 1#32 0#8) State.reset = .next t ∧ t.fault = false) :=
  ⟨⟨show (opcodeOf .avail).toNat ≤ 9 by decide, rfl⟩, exists_next (by decide), exists_next (by decide), exists_next (by decide)⟩

theorem witness_ReconfigurationNeedsQuiescence :
    ((opcodeOf .clear).toNat ∈ [0x01, 0x02, 0x03, 0x04] ∧ ({ live with active := .K } : State).cfg = true ∧
      live.busyP = true) ∧
    (({ State.reset with busyC := true } : State).busyC = true ∧ State.reset.active = .K ∧
      (opcodeOf (.sethint 0#8)).toNat ∈ [0x01, 0x04]) ∧
    (quiet.active = .K ∧ quiet.cfg = true ∧ quiet.busyP = false ∧ quiet.busyC = false) ∧
    (opcodeOf .free).toNat ∈ [0x08, 0x09] := by decide

theorem witness_FaultsArePrecise :
    live.fault = false ∧ ∃ t, exec (.commitw 3#32) live = .next t ∧ t.fault = true :=
  ⟨rfl, exists_next (by decide)⟩

theorem witness_FirstFailingCheckIsReported :
    (∃ t, exec (.sethint 3#8) quiet = .next t ∧ t.fault = true) ∧
    (∃ t, exec (.push 0x1000#64 1#32) State.reset = .next t ∧ t.fault = true) ∧
    (∃ t, exec .fillsil { State.reset with busyP := true } = .next t ∧ t.fault = true) ∧
    (∃ t, exec (.sethint 2#8) { State.reset with busyP := true } = .next t ∧ t.fault = true) ∧
    (∃ t, exec (.resize 0#32 0#8) quiet = .next t ∧ t.fault = true) ∧
    (Instr.sethint 3#8).wellFormed = false ∧ ¬ PortAllowed State.reset.active (opcodeOf (.push 0#64 1#32)).toNat ∧
    PortAllowed State.reset.active (opcodeOf .fillsil).toNat :=
  ⟨exists_next (by decide), exists_next (by decide), exists_next (by decide), exists_next (by decide),
    exists_next (by decide), by decide, show ¬ (opcodeOf (.push 0#64 1#32)).toNat ≤ 9 by decide,
    show (opcodeOf .fillsil).toNat ≤ 9 by decide⟩

theorem witness_HaltedUntilReset :
    dead.fault = true ∧ dead.turns = .port .P :: [] ∧ ({ dead with turns := [] } : State).turns = [] ∧
      (∃ t, step { dead with turns := [.reset] } = .next t) ∧
      ∃ t, step { dead with turns := [.hostStore 0x1000#64 1#8] } = .next t :=
  ⟨rfl, rfl, rfl, ⟨_, rfl⟩, ⟨_, rfl⟩⟩

/-- The quiet block with a turn and an offer for P. -/
def offerP : State := { quiet with turns := [.port .P], offersP := [encode .avail] }

/-- The quiet block with a turn and an offer for C. -/
def offerC : State := { quiet with turns := [.port .C], offersC := [encode .avail] }

theorem witness_IssueLatchesOtherCursor :
    (offerP.fault = false ∧ offerP.turns = .port .P :: [] ∧ offerP.busyP = false ∧
      offerP.offersP = encode .avail :: []) ∧
    (offerC.fault = false ∧ offerC.turns = .port .C :: [] ∧ offerC.busyC = false ∧
      offerC.offersC = encode .avail :: []) := ⟨⟨rfl, rfl, rfl, rfl⟩, rfl, rfl, rfl, rfl⟩

theorem witness_CompleteAlwaysEnabled :
    (live.fault = false ∧ live.turns = .port .P :: [] ∧ live.busyP = true) ∧
    (liveC.fault = false ∧ liveC.turns = .port .C :: [] ∧ liveC.busyC = true) :=
  ⟨⟨rfl, rfl, rfl⟩, rfl, rfl, rfl⟩

theorem witness_NothingOfferedNothingDone :
    quiet.fault = false ∧ ({ quiet with turns := [] } : State).turns = [] ∧
      (({ quiet with turns := [.port .P] } : State).busyP = false ∧ quiet.offersP = []) ∧
      (({ quiet with turns := [.port .C] } : State).busyC = false ∧ quiet.offersC = []) ∧ quiet.offersK = [] :=
  ⟨rfl, rfl, ⟨rfl, rfl⟩, ⟨rfl, rfl⟩, rfl⟩

/-- The bytes of PUSH 0x1000, 5 end before 0x1005. -/
theorem outside_push : ¬ BufferByte (encode (.push 0x1000#64 5#32)) 0x1005#64 := by
  rintro ⟨addr, len, h, -, hi⟩
  rw [show decode (encode (.push 0x1000#64 5#32)) = .ok (.push 0x1000#64 5#32) from rfl] at h
  rcases h with h | h | h | ⟨_, _, _, h⟩ | h <;> cases h
  revert hi
  decide

/-- The bytes of POP 0x2000, 10 begin after 0x1005. -/
theorem outside_pop : ¬ BufferByte (encode (.pop 0x2000#64 10#32)) 0x1005#64 := by
  rintro ⟨addr, len, h, lo, -⟩
  rw [show decode (encode (.pop 0x2000#64 10#32)) = .ok (.pop 0x2000#64 10#32) from rfl] at h
  rcases h with h | h | h | ⟨_, _, _, h⟩ | h <;> cases h
  revert lo
  decide

theorem witness_HostStoresOutsideBuffersInFlight :
    (StoresInv live ∧ live.fault = false ∧ live.busyP = true ∧ live.busyC = true ∧ ¬ BufferInFlight live 0x1005#64) ∧
      dead.fault = true ∧ ¬ BufferInFlight quiet 0x1004#64 ∧
      BufferInFlight { live with busyC := false } 0x1004#64 ∧ BufferInFlight { live with busyP := false } 0x2000#64 :=
  ⟨⟨live_storesInv, rfl, rfl, rfl, fun h => h.elim (fun h => outside_push h.2) fun h => outside_pop h.2⟩, rfl,
    (by rintro (⟨h, -⟩ | ⟨h, -⟩) <;> cases h),
    Or.inl ⟨rfl, 0x1000#64, 5#32, Or.inl rfl, by decide, by decide⟩,
    Or.inr ⟨rfl, 0x2000#64, 10#32, Or.inr (Or.inr (Or.inr (Or.inr rfl))), by decide, by decide⟩⟩

/-! ### Cursors -/

theorem witness_FreePlusAvailIsCapacityMinusOne : RingInv live ∧ live.cfg = true := ⟨live_ringInv, rfl⟩

theorem witness_WriteCursorMovesForward :
    Inv live ∧ (∃ t, step live = .next t ∧ t.wr ≠ live.wr) ∧
      (∃ t, step { quiet with offersK := [encode .clear] } = .next t ∧ t.wr ≠ quiet.wr) ∧
      ∃ t, step { quiet with turns := [.reset] } = .next t ∧ t.wr ≠ quiet.wr :=
  ⟨live_inv, exists_next (by decide), exists_next (by decide), exists_next (by decide)⟩

theorem witness_ReadCursorMovesForward :
    Inv liveC ∧ (∃ t, step liveC = .next t ∧ t.rd ≠ liveC.rd) ∧
      (∃ t, step { quiet with offersK := [encode (.resize 4#32 0#8)] } = .next t ∧ t.rd ≠ quiet.rd) ∧
      ∃ t, step { quiet with turns := [.reset] } = .next t ∧ t.rd ≠ quiet.rd :=
  ⟨liveC_inv, exists_next (by decide), exists_next (by decide), exists_next (by decide)⟩

theorem witness_StalenessBound : Inv live ∧ live.cfg = true ∧ live.busyP = true ∧ live.busyC = true :=
  ⟨live_inv, rfl, rfl, rfl⟩

theorem witness_PortsTouchDisjointBytes :
    Inv live ∧ live.cfg = true ∧ live.busyP = true ∧ live.busyC = true ∧
      2 < freeBytes live.cap live.wr live.snapP ∧ 1 < availBytes live.cap live.snapC live.rd :=
  ⟨live_inv, rfl, rfl, rfl, by decide, by decide⟩

/-! ### Ring control -/

/-- The quiet block with `CAP_MAX = 8`. -/
def small : State := { quiet with config := { Config.vectors with capMaxLog := 3 } }

theorem witness_ResizeReconfigures :
    small.active = .K ∧ small.busyP = false ∧ small.busyC = false ∧
      (1 ≤ (1#32).toNat ∧ (8#32).toNat ≤ 2 ^ small.config.capMaxLog.val) ∧ (0#32).toNat = 0 ∧
      2 ^ small.config.capMaxLog.val < (9#32).toNat := by decide

theorem witness_ClearKeepsStorage :
    quiet.active = .K ∧ quiet.cfg = true ∧ quiet.busyP = false ∧ quiet.busyC = false := by decide

theorem witness_FillSilenceFillsRing :
    quiet.active = .K ∧ quiet.cfg = true ∧ quiet.busyP = false ∧ quiet.busyC = false := by decide

theorem witness_AvailCountsLiveCursors :
    RingInv live ∧ live.cfg = true ∧ live.active = .P ∧ liveC.active = .C ∧ quiet.active = .K :=
  ⟨live_ringInv, rfl, rfl, rfl, rfl⟩

theorem witness_FreeCountsLiveCursors :
    RingInv live ∧ live.cfg = true ∧ live.active = .P ∧ liveC.active = .C ∧ quiet.active = .K :=
  ⟨live_ringInv, rfl, rfl, rfl, rfl⟩

/-! ### Zero-copy -/

theorem witness_WregionGrantsContiguousSpan :
    live.active = .P ∧ live.cfg = true ∧ RingInv live ∧
      ((2#32).toNat ≤ freeBytes live.cap live.wr live.snapP ∧
        live.wr.toNat + (2#32).toNat ≤ live.cap.toNat) ∧
      live.cap.toNat < live.wr.toNat + (3#32).toNat ∧ freeBytes live.cap live.wr live.snapP < (4#32).toNat :=
  ⟨rfl, rfl, live_ringInv, by decide, by decide, by decide⟩

theorem witness_WinwrWritesInsideGrant :
    live.active = .P ∧ live.cfg = true ∧ StoresInv live ∧
      (live.wgb.toNat ≤ (6#64).toNat ∧ (7#64).toNat < live.wgb.toNat + live.wgl.toNat) ∧
      (5#64).toNat < live.wgb.toNat ∧ live.wgb.toNat + live.wgl.toNat ≤ (8#64).toNat :=
  ⟨rfl, rfl, live_storesInv, by decide, by decide, by decide⟩

theorem witness_CommitwAdvancesWriteCursor :
    live.active = .P ∧ live.cfg = true ∧ RingInv live ∧ (2#32).toNat ≤ live.wgl.toNat ∧
      live.wgl.toNat < (3#32).toNat := ⟨rfl, rfl, live_ringInv, by decide, by decide⟩

theorem witness_RregionGrantsContiguousSpan :
    liveC.active = .C ∧ liveC.cfg = true ∧ RingInv liveC ∧
      ((2#32).toNat ≤ availBytes liveC.cap liveC.snapC liveC.rd ∧
        liveC.rd.toNat + (2#32).toNat ≤ liveC.cap.toNat) ∧
      availBytes liveC.cap liveC.snapC liveC.rd < (3#32).toNat ∧
      liveC.cap.toNat < liveC.rd.toNat + (6#32).toNat :=
  ⟨rfl, rfl, live_ringInv, by decide, by decide, by decide⟩

theorem witness_WinrdReadsInsideGrant :
    liveC.active = .C ∧ liveC.cfg = true ∧
      (liveC.rgb.toNat ≤ (3#64).toNat ∧ (5#64).toNat < liveC.rgb.toNat + liveC.rgl.toNat) ∧
      (2#64).toNat < liveC.rgb.toNat ∧ liveC.rgb.toNat + liveC.rgl.toNat ≤ (6#64).toNat := by decide

theorem witness_AdvancerAdvancesReadCursor :
    liveC.active = .C ∧ liveC.cfg = true ∧ RingInv liveC ∧ (3#32).toNat ≤ liveC.rgl.toNat ∧
      liveC.rgl.toNat < (4#32).toNat := ⟨rfl, rfl, live_ringInv, by decide, by decide⟩

theorem witness_GrantRevocation :
    live.fault = false ∧ (∃ t, exec (.push 0x1000#64 5#32) live = .next t ∧ t.fault = false) ∧
      (∃ t, exec (.wregion 2#32) live = .next t ∧ t.fault = false) ∧
      (∃ t, exec (.winwr 6#64 1#8) live = .next t ∧ t.fault = false) ∧
      (∃ t, exec (.pop 0x2000#64 1#32) liveC = .next t ∧ t.fault = false) ∧
      (∃ t, exec (.rregion 2#32) liveC = .next t ∧ t.fault = false) ∧
      (∃ t, exec (.winrd 3#64) liveC = .next t ∧ t.fault = false) ∧
      (∃ t, exec .clear quiet = .next t ∧ t.fault = false) ∧
      ∃ t, step { live with turns := [.reset] } = .next t :=
  ⟨rfl, exists_next (by decide), exists_next (by decide), exists_next (by decide), exists_next (by decide),
    exists_next (by decide), exists_next (by decide), exists_next (by decide), _, rfl⟩

/-! ### Raw transfers -/

/-- The live block on a platform where host addresses 0x1002 and 0x2001 may not be accessed. -/
def holed : State := { live with config := { Config.vectors with hostHoles := [(0x1002, 1), (0x2001, 1)] } }

theorem witness_PushCopiesClampedBytes :
    live.active = .P ∧ live.cfg = true ∧ RingInv live ∧ StoresInv live ∧
      (∀ i, i < min (5#32).toNat (freeBytes live.cap live.wr live.snapP) →
        hostOK live.config ((0x1000#64).toNat + i) = true) ∧
      (∃ i, i < min (5#32).toNat (freeBytes holed.cap holed.wr holed.snapP) ∧
        hostOK holed.config ((0x1000#64).toNat + i) = false) ∧
      ∃ i, i < min (5#32).toNat (freeBytes live.cap live.wr live.snapP) ∧
        hostOK live.config ((0xFFFFFFFFFFFFFFFF#64).toNat + i) = false :=
  ⟨rfl, rfl, live_ringInv, live_storesInv, by decide, ⟨2, by decide, by decide⟩, ⟨1, by decide, by decide⟩⟩

theorem witness_PopCopiesClampedBytes :
    liveC.active = .C ∧ liveC.cfg = true ∧ RingInv liveC ∧ StoresInv liveC ∧
      (∀ i, i < min (10#32).toNat (availBytes liveC.cap liveC.snapC liveC.rd) →
        hostOK liveC.config ((0x2000#64).toNat + i) = true) ∧
      ∃ i, i < min (10#32).toNat (availBytes holed.cap holed.snapC holed.rd) ∧
        hostOK holed.config ((0x2000#64).toNat + i) = false :=
  ⟨rfl, rfl, live_ringInv, live_storesInv, by decide, ⟨1, by decide, by decide⟩⟩

theorem witness_HostAddressesDoNotWrap :
    live.cfg = true ∧ live.active = .P ∧ liveC.active = .C ∧
      2 ^ 64 < (0xFFFFFFFFFFFFFFFE#64).toNat + min (5#32).toNat (freeBytes live.cap live.wr live.snapP) ∧
      2 ^ 64 < (0xFFFFFFFFFFFFFFFF#64).toNat + min (10#32).toNat (availBytes liveC.cap liveC.snapC liveC.rd) ∧
      min (0#32).toNat (freeBytes live.cap live.wr live.snapP) = 0 ∧
      min (0#32).toNat (availBytes liveC.cap liveC.snapC liveC.rd) = 0 := by decide

theorem witness_PushAppendsToQueue :
    Inv live ∧ live.busyP = true ∧ live.active = .P ∧ live.fault = false ∧
      ∃ t, exec (.push 0x1000#64 5#32) live = .next t ∧ t.fault = false ∧ t.rvalP = 3#32 :=
  ⟨live_inv, rfl, rfl, rfl, exists_next (by decide)⟩

theorem witness_PopTakesFromQueue :
    Inv liveC ∧ liveC.busyC = true ∧ liveC.active = .C ∧ liveC.fault = false ∧
      ∃ t, exec (.pop 0x2000#64 10#32) liveC = .next t ∧ t.fault = false ∧ t.rvalC = 2#32 :=
  ⟨liveC_inv, rfl, rfl, rfl, exists_next (by decide)⟩

theorem witness_StepRefinesByteQueue :
    (Inv live ∧ live.cfg = true ∧ live.turns = .port .P :: [] ∧ ∃ t, step live = .next t ∧ t.wr ≠ live.wr) ∧
    (Inv liveC ∧ liveC.turns = .port .C :: [] ∧ ∃ t, step liveC = .next t ∧ t.rd ≠ liveC.rd) ∧
    (Inv quiet ∧ quiet.turns = .port .K :: [] ∧
      ∃ t, step { quiet with offersK := [encode .fillsil] } = .next t ∧ t.ring ≠ quiet.ring) ∧
    (∃ t, step { quiet with turns := [] } = .next t) ∧
    (∃ t, step { quiet with turns := [.hostStore 0x1000#64 9#8] } = .next t) ∧
    (contents quiet ≠ [] ∧ ∃ t, step { quiet with turns := [.reset] } = .next t ∧ t.wr ≠ quiet.wr) ∧
    (Inv State.reset ∧ State.reset.cfg = false ∧
      ∃ t, step (placeDescriptor (encode (.resize 8#32 9#8)) State.reset) = .next t ∧ t.cfg = true) :=
  ⟨⟨live_inv, rfl, rfl, exists_next (by decide)⟩, ⟨liveC_inv, rfl, exists_next (by decide)⟩,
    ⟨quiet_inv, rfl, exists_next (by decide)⟩, ⟨_, rfl⟩, ⟨_, rfl⟩, ⟨by decide, exists_next (by decide)⟩,
    reset_inv, rfl, exists_next (by decide)⟩

/-- An empty ring of 8 bytes with its cursors at 6, source bytes at 0x1000. -/
def empty : State := host 0x1000 [1#8, 2#8, 3#8, 4#8, 5#8] { block 8 6 6 with silence := 9#8 }

theorem empty_inv : Inv empty where
  ring := show (∃ j, j ≤ 31 ∧ 8 = 2 ^ j) ∧ _ ∧ _ from ⟨⟨3, by decide, by decide⟩, by decide, by decide⟩
  stores := by unfold StoresInv; decide
  align := by unfold AlignInv; decide
  grants := by unfold GrantInv; decide
  snaps := by unfold SnapInv; decide
  record := by unfold FaultInv; decide

theorem witness_PushPopRoundTrip :
    Inv empty ∧ empty.cfg = true ∧ empty.fault = false ∧ empty.wr = empty.rd ∧
      ((transferAll pushWhole [(0x1000#64, 3#32), (0x1003#64, 2#32)] empty).bind fun r =>
        (transferAll popWhole [(0x2000#64, 3#32), (0x2003#64, 2#32)] r.2).map Prod.fst) =
      some [1#8, 2#8, 3#8, 4#8, 5#8] :=
  ⟨empty_inv, rfl, rfl, rfl, by decide⟩

/-! ### Format pushes and the alignment state -/

theorem witness_SethintRearmsDetection :
    quiet.active = .K ∧ quiet.busyP = false ∧ quiet.busyC = false ∧ State.reset.active = .K ∧
      2 < (3#8).toNat := by decide

/-- A producer at its COMPLETE on a block of capacity 64 with one container at 0x1000. -/
def feed (container : List Byte) : State := onP (host 0x1000 container (block 64 0 0))

theorem feed_ringInv (c : List Byte) : RingInv (feed c) := by
  show RingInv (feed [])
  exact show (∃ j, j ≤ 31 ∧ 64 = 2 ^ j) ∧ _ ∧ _ from ⟨⟨6, by decide, by decide⟩, by decide, by decide⟩

theorem feed_alignInv (c : List Byte) : AlignInv (feed c) := by
  show AlignInv (feed [])
  unfold AlignInv
  decide

/-- The clamp of a PUSH24 of one container is one container, and its window is that container. -/
theorem witness_Push24DetectsAlignment :
    ((feed []).active = .P ∧ (feed []).cfg = true ∧ RingInv (feed []) ∧ AlignInv (feed [])) ∧
      1 = min ((4#32).toNat / 4)
        (min (((feed []).config.scratchLast + 1) / 3) (freeBytes (feed []).cap (feed []).wr (feed []).snapP / 3)) ∧
      1 = min 32 1 ∧ (∀ i, i < 4 * 1 → hostOK (feed []).config ((0x1000#64).toNat + i) = true) ∧
      (hostByte (feed []) 0x1000 = 0#8 ∧ hostByte (feed []) 0x1003 = 0#8) ∧
      (hostByte (feed [1#8]) 0x1000 ≠ 0#8 ∧ hostByte (feed [1#8]) 0x1003 = 0#8) ∧
      (hostByte (feed [0#8, 1#8, 2#8, 3#8]) 0x1000 = 0#8 ∧ hostByte (feed [0#8, 1#8, 2#8, 3#8]) 0x1003 ≠ 0#8) ∧
      (hostByte (feed [1#8, 1#8, 2#8, 3#8]) 0x1000 ≠ 0#8 ∧ hostByte (feed [1#8, 1#8, 2#8, 3#8]) 0x1003 ≠ 0#8) ∧
      (feed []).conf = false ∧ ({ feed [] with conf := true, mode := .lsb } : State).conf = true :=
  ⟨⟨rfl, rfl, feed_ringInv _, feed_alignInv _⟩, by decide, by decide, by decide, by decide, by decide, by decide,
    by decide, rfl, rfl⟩

/-- The same block on a platform where host address 0x1001 may not be accessed. -/
def feedHoled : State := { feed [] with config := { Config.vectors with hostHoles := [(0x1001, 1)] } }

theorem witness_Push24PushesRepackedSamples :
    (feed []).active = .P ∧ (feed []).cfg = true ∧ RingInv (feed []) ∧ StoresInv (feed []) ∧
      1 = min ((7#32).toNat / 4)
        (min (((feed []).config.scratchLast + 1) / 3) (freeBytes (feed []).cap (feed []).wr (feed []).snapP / 3)) ∧
      (∀ i, i < 4 * 1 → hostOK (feed []).config ((0x1000#64).toNat + i) = true) ∧
      ∃ i, i < 4 * 1 ∧ hostOK feedHoled.config ((0x1000#64).toNat + i) = false :=
  ⟨rfl, rfl, feed_ringInv _, by unfold StoresInv; decide, by decide, by decide, ⟨1, by decide, by decide⟩⟩

theorem witness_Push16To32PushesWidenedSamples :
    (feed []).active = .P ∧ (feed []).cfg = true ∧ RingInv (feed []) ∧ StoresInv (feed []) ∧
      1 = min ((3#32).toNat / 2)
        (min (((feed []).config.scratchLast + 1) / 4) (freeBytes (feed []).cap (feed []).wr (feed []).snapP / 4)) ∧
      (∀ i, i < 2 * 1 → hostOK (feed []).config ((0x1000#64).toNat + i) = true) ∧
      ∃ i, i < 2 * 1 ∧ hostOK feedHoled.config ((0x1000#64).toNat + i) = false :=
  ⟨rfl, rfl, feed_ringInv _, by unfold StoresInv; decide, by decide, by decide, ⟨1, by decide, by decide⟩⟩

theorem witness_PushdsdPushesInterleavedFrames :
    (feed []).active = .P ∧ (feed []).cfg = true ∧ RingInv (feed []) ∧ StoresInv (feed []) ∧
      (2#8).toNat ≠ 0 ∧ (16#32).toNat % (2#8).toNat = 0 ∧
      2 = min ((16#32).toNat / (2#8).toNat / 4)
        (min (((feed []).config.scratchLast + 1) / (4 * (2#8).toNat))
          (freeBytes (feed []).cap (feed []).wr (feed []).snapP / (4 * (2#8).toNat))) ∧
      (∀ x, x < (2#8).toNat → ∀ i, i < 4 * 2 → hostOK (feed []).config ((0x1000#64).toNat + x * 8 + i) = true) ∧
      hostOK feedHoled.config ((0x1000#64).toNat + 0 * 8 + 1) = false ∧
      (0#8).toNat = 0 ∧ (10#32).toNat % (3#8).toNat ≠ 0 :=
  ⟨rfl, rfl, feed_ringInv _, by unfold StoresInv; decide, by decide, by decide, by decide, by decide, by decide,
    by decide, by decide⟩

theorem witness_AlignmentStateOwners :
    (∃ t, exec (.push 0x1000#64 5#32) live = .next t ∧ t.fault = false) ∧
      (∃ t, exec (.push24 0x1000#64 4#32) (feed [1#8]) = .next t ∧ t.conf = true) ∧
      (opcodeOf (.push 0#64 0#32)).toNat ∉ [0x02, 0x04, 0x11] ∧ (opcodeOf (.push24 0#64 0#32)).toNat ∉ [0x02, 0x04] ∧
      ({ feed [] with conf := true, mode := .msb } : State).conf = true :=
  ⟨exists_next (by decide), exists_next (by decide), by decide, by decide, rfl⟩

/-! ### Whole-machine frames -/

theorem witness_OnlyPopWritesHostMemory :
    StoresInv liveC ∧ ∃ t, exec (.pop 0x2000#64 10#32) liveC = .next t ∧ t.hmem ≠ liveC.hmem :=
  ⟨live_storesInv, exists_next (by decide)⟩

theorem witness_CommandsWriteOwnPortOnly :
    live.active ≠ .C ∧ live.active ≠ .K ∧ liveC.active ≠ .P ∧
      (live.fault = false ∧ live.active = .P ∧
        ∃ t, exec .avail live = .next t ∧ t.fault = false ∧ t.rvalP ≠ live.rvalP) ∧
      (liveC.fault = false ∧ liveC.active = .C ∧
        ∃ t, exec .avail liveC = .next t ∧ t.fault = false ∧ t.rvalC ≠ liveC.rvalC) ∧
      (quiet.fault = false ∧ quiet.active = .K ∧
        ∃ t, exec .avail quiet = .next t ∧ t.fault = false ∧ t.rvalK ≠ quiet.rvalK) ∧
      ∃ t, exec .clear live = .next t ∧ t.fault = true :=
  ⟨by decide, by decide, by decide, ⟨rfl, rfl, exists_next (by decide)⟩, ⟨rfl, rfl, exists_next (by decide)⟩,
    ⟨rfl, rfl, exists_next (by decide)⟩, exists_next (by decide)⟩

theorem witness_CommandsLeaveAgentsAlone :
    (∃ t, exec .avail live = .next t ∧ t.rokP = true) ∧ ∃ t, step live = .next t :=
  ⟨exists_next (by decide), _, rfl⟩

end Sys2Proof.Tests
end

/-! The lemmas behind the byte queue (20_memory.md R73), and the statement that every step refines it. -/

namespace Sys2Proof.Machine

/-! ### What one command can do -/

/-- The body of a command: its own check and its effects, which `exec` hands to `runCommand`. -/
def commandBody (i : Instr) : State → Except FaultCode Reply :=
  match i with
  | .resize len silence => resizeBody len silence
  | .clear => clearBody
  | .fillsil => fillsilBody
  | .sethint hint => sethintBody hint
  | .avail => availBody
  | .free => freeBody
  | .push addr len => pushBody addr len
  | .push24 addr len => push24Body addr len
  | .push16to32 addr len => push16to32Body addr len
  | .pushdsd addr len channels br bs => pushdsdBody addr len channels br bs
  | .wregion len => wregionBody len
  | .winwr off byte => winwrBody off byte
  | .commitw n => commitwBody n
  | .pop addr len => popBody addr len
  | .rregion len => rregionBody len
  | .winrd off => winrdBody off
  | .advancer n => advancerBody n

/-- The meaning of every command is its body behind the shared checks. -/
theorem exec_eq_runCommand (i : Instr) (s : State) : exec i s = runCommand i (commandBody i) s := by
  cases i <;> rfl

/-- A descriptor that runs takes a fault, or its command passes every check and leaves its body's state with the
result written. -/
theorem runDescriptor_cases {d : Desc} {s t : State} (h : runDescriptor d s = .next t) :
    (∃ c d', t = raiseFault c d' s) ∨
      ∃ i r, decode d = .ok i ∧ genericFault i s = none ∧ commandBody i s = .ok r ∧
        t = finish r.val r.ok r.state := by
  unfold runDescriptor at h
  split at h
  · exact .inl ⟨_, _, (Host.Outcome.next.inj h).symm⟩
  · rename_i i hd
    rw [exec_eq_runCommand] at h
    obtain ⟨c, -, ht⟩ | ⟨c, -, -, ht⟩ | ⟨r, hg, hb, ht⟩ := runCommand_cases _ _ _ _ h
    · exact .inl ⟨c, _, ht⟩
    · exact .inl ⟨c, _, ht⟩
    · exact .inr ⟨i, r, hd, hg, hb, ht⟩

/-! ### What one step can do -/

/-- A turn of a port runs the port's pending descriptor, issues the next offer of P or C, or finds nothing to do. -/
theorem step_port_cases {p : Port} {ts : List Turn} {s t : State} (hs : s.turns = .port p :: ts)
    (h : step s = .next t) :
    s.fault = false ∧
      ((∃ d, pending p d s ∧ runDescriptor d (atTurn p ts s) = .next t) ∨
        (p = .P ∧ s.busyP = false ∧ ∃ d ds, s.offersP = d :: ds ∧
          t = issueP d { s with turns := ts, active := .P, offersP := ds }) ∨
        (p = .C ∧ s.busyC = false ∧ ∃ d ds, s.offersC = d :: ds ∧
          t = issueC d { s with turns := ts, active := .C, offersC := ds }) ∨
        t = { s with turns := ts, active := p }) := by
  simp only [step, hs, takeTurn, stepPort] at h
  split at h
  · cases h
  rename_i hf
  refine ⟨by simpa using hf, ?_⟩
  cases p with
  | P =>
    simp only [stepP] at h
    split at h
    · rename_i hb
      exact .inl ⟨s.latchP, ⟨hb, rfl⟩, h⟩
    · rename_i hb
      split at h
      · exact .inr (.inr (.inr (Host.Outcome.next.inj h).symm))
      · rename_i d ds ho
        exact .inr (.inl ⟨rfl, by simpa using hb, d, ds, ho, (Host.Outcome.next.inj h).symm⟩)
  | C =>
    simp only [stepC] at h
    split at h
    · rename_i hb
      exact .inl ⟨s.latchC, ⟨hb, rfl⟩, h⟩
    · rename_i hb
      split at h
      · exact .inr (.inr (.inr (Host.Outcome.next.inj h).symm))
      · rename_i d ds ho
        exact .inr (.inr (.inl ⟨rfl, by simpa using hb, d, ds, ho, (Host.Outcome.next.inj h).symm⟩))
  | K =>
    simp only [stepK] at h
    split at h
    · exact .inr (.inr (.inr (Host.Outcome.next.inj h).symm))
    · rename_i d ds ho
      refine .inl ⟨d, ?_, ?_⟩
      · show s.offersK.head? = some d
        rw [ho]; rfl
      · rw [← h]
        show runDescriptor d { s with turns := ts, active := .K, offersK := s.offersK.tail } = _
        rw [ho]; rfl

theorem step_hostStore_eq {a : Addr} {b : Byte} {ts : List Turn} {s t : State}
    (hs : s.turns = .hostStore a b :: ts) (h : step s = .next t) :
    t = { s with turns := ts, hmem := Memory.write hostFill a.toNat b s.hmem } := by
  simp only [step, hs, takeTurn] at h
  obtain ⟨-, -, hr⟩ | ⟨-, hn⟩ := storeHost_cases a b { s with turns := ts }
  · rw [hr] at h; cases h
  · rw [hn] at h; exact (Host.Outcome.next.inj h).symm

theorem step_reset_eq {ts : List Turn} {s t : State} (hs : s.turns = .reset :: ts) (h : step s = .next t) :
    t = resetBlock { s with turns := ts } := by
  simp only [step, hs, takeTurn] at h
  exact (Host.Outcome.next.inj h).symm

theorem step_idle_eq {s t : State} (hs : s.turns = []) (h : step s = .next t) : t = s := by
  simp only [step, hs, stepIdle] at h
  split at h
  · cases h
  · exact (Host.Outcome.next.inj h).symm

/-- The invariant does not depend on the schedule, the offers or the active port. -/
theorem Inv.atTurn {s : State} (h : Inv s) (p : Port) (ts : List Turn) : Inv (atTurn p ts s) := by
  obtain ⟨hring, hstores, halign, hgrants, hsnaps, hrecord⟩ := h
  cases p <;> exact ⟨hring, hstores, halign, hgrants, hsnaps, hrecord⟩

/-! ### Cursors -/

/-- An offset up to one capacity ahead of a cursor, without a modulus. -/
theorem add_mod_of_lt (cap c i : Nat) (hc : c < cap) (hi : i ≤ cap) :
    (c + i) % cap = if c + i < cap then c + i else c + i - cap := by
  split
  · exact Nat.mod_eq_of_lt ‹_›
  · rw [Nat.mod_eq_sub_mod (by omega), Nat.mod_eq_of_lt (by omega)]

section Cursors

variable {cap w r : Word} {n : Nat} (hw : w.toNat < cap.toNat) (hr : r.toNat < cap.toNat)

include hw hr

/-- The available bytes end where the write cursor stands. -/
theorem add_availBytes_mod : (r.toNat + availBytes cap w r) % cap.toNat = w.toNat := by
  rw [add_mod_of_lt _ _ _ hr (Nat.le_of_lt (availBytes_lt _ _ _ (by omega))), availBytes_eq cap w r hw hr]
  split_ifs <;> omega

/-- Available byte `i` lies beyond all free bytes and the reserved slot, seen from the write cursor. -/
theorem ringDist_available {i : Nat} (hi : i < availBytes cap w r) :
    ringDist cap.toNat w.toNat ((r.toNat + i) % cap.toNat) = freeBytes cap w r + 1 + i := by
  have hlt := availBytes_lt cap w r (by omega)
  rw [availBytes_eq cap w r hw hr] at hi hlt
  rw [freeBytes_eq cap w r hw hr, add_mod_of_lt _ _ _ hr (by omega), ringDist]
  split_ifs at hi ⊢ <;> omega

/-- Writing into free space makes that many more bytes available. -/
theorem availBytes_advance_wr (hn : n ≤ freeBytes cap w r) :
    availBytes cap (advance cap w n) r = availBytes cap w r + n := by
  have hlt := freeBytes_lt cap w r (by omega)
  rw [availBytes_eq _ _ _ (advance_lt cap w n (by omega)) hr, advance_eq cap w n hw (by omega),
    availBytes_eq cap w r hw hr]
  rw [freeBytes_eq cap w r hw hr] at hn hlt
  split_ifs at hn hlt ⊢ <;> omega

/-- Releasing available bytes makes that many fewer available. -/
theorem availBytes_advance_rd (hn : n ≤ availBytes cap w r) :
    availBytes cap w (advance cap r n) = availBytes cap w r - n := by
  have hlt := availBytes_lt cap w r (by omega)
  rw [availBytes_eq _ _ _ hw (advance_lt cap r n (by omega)), advance_eq cap r n hr (by omega)]
  rw [availBytes_eq cap w r hw hr] at hn hlt ⊢
  split_ifs at hn hlt ⊢ <;> omega

/-- A read cursor that `RD` has since moved on from shows no more free space than there is (20_memory.md R72). -/
theorem freeBytes_snap_le {p : Word} (hp : p.toNat < cap.toNat) (h : availBytes cap r p ≤ availBytes cap w p) :
    freeBytes cap w p ≤ freeBytes cap w r := by
  rw [availBytes_eq cap r p hr hp, availBytes_eq cap w p hw hp] at h
  rw [freeBytes_eq cap w p hw hp, freeBytes_eq cap w r hw hr]
  split_ifs at h ⊢ <;> omega

end Cursors

/-! ### The queue after each state operation -/

@[simp] theorem contents_raiseFault (c : FaultCode) (d : Desc) (s : State) :
    contents (raiseFault c d s) = contents s := rfl
@[simp] theorem contents_finish (v : Word) (ok : Bool) (s : State) : contents (finish v ok s) = contents s := rfl
@[simp] theorem contents_setWriteGrant (b l : Word) (s : State) : contents (setWriteGrant b l s) = contents s := rfl
@[simp] theorem contents_setReadGrant (b l : Word) (s : State) : contents (setReadGrant b l s) = contents s := rfl
@[simp] theorem contents_revokeGrants (s : State) : contents (revokeGrants s) = contents s := rfl
@[simp] theorem contents_memWrite (a : Nat) (v : List Byte) (s : State) : contents (memWrite a v s) = contents s := rfl
@[simp] theorem contents_updateHint (h : Option SampleSide) (s : State) : contents (updateHint h s) = contents s := rfl
@[simp] theorem contents_atTurn (p : Port) (ts : List Turn) (s : State) : contents (atTurn p ts s) = contents s := by
  cases p <;> rfl
@[simp] theorem contents_detectIfNeeded (a k : Nat) (s : State) :
    contents (detectIfNeeded a k s) = contents s := by
  simp [contents, ringByte]

/-- Equal cursors mean an empty queue (10_state.md R29). -/
theorem contents_eq_nil {s : State} (h : s.wr = s.rd) : contents s = [] := by
  simp [contents, h, availBytes]

/-- FILLSIL's storage: as many bytes as before, each the silence byte (40_ring_control.md R125). -/
theorem contents_clearedStorage (s : State) :
    contents { s with ring := [] } = (contents s).map fun _ => s.silence := by
  simp only [contents, List.map_map]
  rfl

section Queue

variable {s : State} {n : Nat} (hw : s.wr.toNat < s.cap.toNat) (hr : s.rd.toNat < s.cap.toNat)

include hw hr

/-- New storage that keeps every byte out of reach of the free space keeps the queue. -/
theorem contents_storage {ring : Memory}
    (h : ∀ o, o < s.cap.toNat → freeBytes s.cap s.wr s.rd < ringDist s.cap.toNat s.wr.toNat o →
      Memory.read s.silence o ring = ringByte s o) :
    contents { s with ring := ring } = contents s := by
  refine List.map_congr_left fun i hi => h _ (Nat.mod_lt _ (Nat.zero_lt_of_lt hw)) ?_
  rw [ringDist_available hw hr (List.mem_range.1 hi)]
  omega

/-- Moving `WR` over free bytes adds the bytes there to the end of the queue. -/
theorem contents_advance_wr (hn : n ≤ freeBytes s.cap s.wr s.rd) :
    contents { s with wr := advance s.cap s.wr n } =
      contents s ++ (List.range n).map fun i => ringByte s ((s.wr.toNat + i) % s.cap.toNat) := by
  simp only [contents, availBytes_advance_wr hw hr hn, List.range_add, List.map_append, List.map_map]
  congr 1
  refine List.map_congr_left fun i _ => ?_
  show ringByte s ((s.rd.toNat + (availBytes s.cap s.wr s.rd + i)) % s.cap.toNat) = _
  rw [← Nat.add_assoc, ← Nat.mod_add_mod, add_availBytes_mod hw hr]

/-- Moving `RD` over available bytes removes them from the front of the queue. -/
theorem contents_ringDrop (hn : n ≤ availBytes s.cap s.wr s.rd) :
    contents (ringDrop n s) = (contents s).drop n := by
  have hrd := advance_toNat s.cap s.rd n (by omega)
  refine List.ext_getElem ?_ fun i _ _ => ?_
  · simp [contents, ringDrop, availBytes_advance_rd hw hr hn]
  · simp [contents, ringDrop, hrd, ringByte, Nat.add_assoc]

/-- `RingPut` adds its bytes to the end of the queue (42_raw_transfer.md R170). -/
theorem contents_ringPut {v : List Byte} (hwf : Memory.wf s.silence s.cap.toNat s.ring = true)
    (hv : v.length ≤ freeBytes s.cap s.wr s.rd) : contents (ringPut v s) = contents s ++ v := by
  have hcap : v.length ≤ s.cap.toNat := hv.trans (Nat.le_of_lt (freeBytes_lt _ _ _ (by omega)))
  have hold : contents { s with ring := (ringPut v s).ring } = contents s :=
    contents_storage hw hr fun o ho hfar => by
      have := ringByte_ringPut v s o hwf hw hcap ho
      rwa [if_neg (by omega)] at this
  have hnew : (List.range v.length).map (fun i => ringByte (ringPut v s) ((s.wr.toNat + i) % s.cap.toNat)) = v := by
    refine List.ext_getElem (by simp) fun i hi hi' => ?_
    rw [List.getElem_map, List.getElem_range,
      ringByte_ringPut v s _ hwf hw hcap (Nat.mod_lt _ (by omega)), ringDist_ahead _ _ _ hw (by omega), if_pos hi']
    simp [hi']
  calc contents (ringPut v s)
      = contents { s with ring := (ringPut v s).ring } ++ (List.range v.length).map fun i =>
          ringByte (ringPut v s) ((s.wr.toNat + i) % s.cap.toNat) :=
        contents_advance_wr (s := { s with ring := (ringPut v s).ring }) hw hr hv
    _ = contents s ++ v := by rw [hold, hnew]

/-- A byte written into the free space that lies before the end of the buffer is not in the queue. -/
theorem contents_write_free {o : Nat} {b : Byte} (hwf : Memory.wf s.silence s.cap.toNat s.ring = true)
    (ho : s.wr.toNat ≤ o) (hn : o < s.wr.toNat + contigFree s.cap s.wr s.rd) :
    contents { s with ring := Memory.write s.silence o b s.ring } = contents s := by
  refine contents_storage hw hr fun x _ hfar => ?_
  have hle := contigFree_le_free s.cap s.wr s.rd
  refine Memory.read_write_other _ _ _ _ _ _ hwf ?_
  rintro rfl
  rw [ringDist, if_pos ho] at hfar
  omega

/-- A format push adds its staged bytes to the end of the queue (43_format_push.md R190). -/
theorem contents_pushStaged {staged : List Byte} (k : Nat)
    (hwf : Memory.wf s.silence s.cap.toNat s.ring = true) (hv : staged.length ≤ freeBytes s.cap s.wr s.rd) :
    contents (pushStaged staged k s).state = contents s ++ staged :=
  contents_ringPut (s := { s with scratch := Memory.writeList scratchFill 0 staged s.scratch }) hw hr hwf hv

end Queue

/-! ### The queue after each command -/

/-- The ring invariant of a configured block puts both cursors below the capacity. -/
theorem RingInv.cursors_lt {s : State} (h : RingInv s) (hc : s.cfg = true) :
    s.wr.toNat < s.cap.toNat ∧ s.rd.toNat < s.cap.toNat := by
  rw [RingInv, if_pos hc] at h
  exact h.2

/-- A grant's length, zero or not, fits the contiguous free bytes (41_zero_copy.md R140). -/
theorem GrantInv.wgl_le {s : State} (h : GrantInv s) : s.wgl.toNat ≤ contigFree s.cap s.wr s.rd := by
  by_cases h0 : s.wgl = 0#32
  · simp [h0]
  · exact (h.1 h0).2

/-- A grant's length, zero or not, fits the contiguous available bytes (41_zero_copy.md R141). -/
theorem GrantInv.rgl_le {s : State} (h : GrantInv s) : s.rgl.toNat ≤ contigAvail s.cap s.wr s.rd := by
  by_cases h0 : s.rgl = 0#32
  · simp [h0]
  · exact (h.2 h0).2

section ProducerBodies

variable {s : State} {r : Reply} (hw : s.wr.toNat < s.cap.toNat) (hr : s.rd.toNat < s.cap.toNat)

include hw hr

section Pushes

variable (hwf : Memory.wf s.silence s.cap.toNat s.ring = true)
  (hfree : freeBytes s.cap s.wr s.snapP ≤ freeBytes s.cap s.wr s.rd)

include hwf hfree

/-- PUSH adds the bytes it accepts (42_raw_transfer.md R172). -/
theorem contents_pushBody {addr : Addr} {len : Word} (hb : pushBody addr len s = .ok r) :
    contents r.state =
      contents s ++ memRead s addr.toNat (min len.toNat (freeBytes s.cap s.wr s.snapP)) := by
  simp only [pushBody] at hb
  split at hb <;> cases hb
  exact contents_ringPut hw hr hwf (by rw [length_memRead]; omega)

/-- PUSH24 adds the repacked containers, in the mode after detection (43_format_push.md R199). -/
theorem contents_push24Body {addr : Addr} {len : Word} {k : Nat} (hk : k = clampUnits s (len.toNat / 4) 3)
    (hb : push24Body addr len s = .ok r) :
    contents r.state = contents s ++
      staged24 (detectIfNeeded addr.toNat k s) (conversionSide (detectIfNeeded addr.toNat k s)) addr.toNat k := by
  obtain ⟨-, -, hclamp⟩ := clampUnits_le s (len.toNat / 4) 3
  simp only [push24Body, ← hk] at hb hclamp
  split at hb <;> cases hb
  rw [contents_pushStaged (by simpa using hw) (by simpa using hr) _ (by simpa using hwf)
    (by simpa using hclamp.trans hfree), contents_detectIfNeeded]

/-- PUSH16TO32 adds the widened samples (43_format_push.md R201). -/
theorem contents_push16to32Body {addr : Addr} {len : Word} (hb : push16to32Body addr len s = .ok r) :
    contents r.state = contents s ++ staged16 s addr.toNat (clampUnits s (len.toNat / 2) 4) := by
  obtain ⟨-, -, hk⟩ := clampUnits_le s (len.toNat / 2) 4
  simp only [push16to32Body] at hb
  split at hb <;> cases hb
  exact contents_pushStaged hw hr _ hwf (by simpa using hk.trans hfree)

/-- PUSHDSD adds the interleaved frames (43_format_push.md R204). -/
theorem contents_pushdsdBody {addr : Addr} {len : Word} {channels : Byte} {br bs : Bool}
    (hb : pushdsdBody addr len channels br bs s = .ok r) :
    contents r.state = contents s ++
      interleave s addr.toNat (len.toNat / channels.toNat) channels.toNat br bs
        (clampUnits s (len.toNat / channels.toNat / 4) (4 * channels.toNat)) := by
  obtain ⟨-, -, hk⟩ := clampUnits_le s (len.toNat / channels.toNat / 4) (4 * channels.toNat)
  simp only [pushdsdBody] at hb
  split_ifs at hb
  cases hb
  exact contents_pushStaged hw hr _ hwf (by simpa using hk.trans hfree)

end Pushes

section Grants

variable (hgrant : GrantInv s)

include hgrant

/-- WINWR writes into the granted free bytes, which the queue does not hold (41_zero_copy.md R143). -/
theorem contents_winwrBody (hwf : Memory.wf s.silence s.cap.toNat s.ring = true) {off : Addr} {byte : Byte}
    (hb : winwrBody off byte s = .ok r) : contents r.state = contents s := by
  simp only [winwrBody] at hb
  split at hb <;> cases hb
  rename_i hin
  obtain ⟨hlo, hhi⟩ := (inGrant_iff s.wgb s.wgl off).1 (by simpa using hin)
  obtain ⟨hbase, hlen⟩ := hgrant.1 (by rintro h0; simp [h0] at hhi; omega)
  rw [hbase] at hlo hhi
  exact contents_write_free hw hr hwf hlo (by omega)

/-- COMMITW adds the committed bytes as they stand in the ring (41_zero_copy.md R144). -/
theorem contents_commitwBody {n : Word} (hb : commitwBody n s = .ok r) :
    contents r.state =
      contents s ++ (List.range n.toNat).map fun i => ringByte s ((s.wr.toNat + i) % s.cap.toNat) := by
  have hlen := hgrant.wgl_le.trans (contigFree_le_free ..)
  simp only [commitwBody] at hb
  split at hb <;> cases hb
  simp only [contents_setWriteGrant]
  exact contents_advance_wr hw hr (by omega)

end Grants

end ProducerBodies

/-- WREGION only writes the grant (41_zero_copy.md R142). -/
theorem contents_wregionBody {len : Word} {s : State} {r : Reply} (hb : wregionBody len s = .ok r) :
    contents r.state = contents s := by
  simp only [wregionBody] at hb
  split at hb <;> cases hb <;> rfl

/-- POP removes the bytes it delivers (42_raw_transfer.md R173). -/
theorem contents_popBody {addr : Addr} {len : Word} {s : State} {r : Reply} (hw : s.wr.toNat < s.cap.toNat)
    (hr : s.rd.toNat < s.cap.toNat) (hseen : availBytes s.cap s.snapC s.rd ≤ availBytes s.cap s.wr s.rd)
    (hb : popBody addr len s = .ok r) :
    contents r.state = (contents s).drop (min len.toNat (availBytes s.cap s.snapC s.rd)) := by
  simp only [popBody] at hb
  split at hb <;> cases hb
  simp only [contents_setReadGrant, contents_memWrite]
  exact contents_ringDrop hw hr ((Nat.min_le_right _ _).trans hseen)

/-- RREGION only writes the grant (41_zero_copy.md R145). -/
theorem contents_rregionBody {len : Word} {s : State} {r : Reply} (hb : rregionBody len s = .ok r) :
    contents r.state = contents s := by
  simp only [rregionBody] at hb
  split at hb <;> cases hb <;> rfl

/-- WINRD changes nothing (41_zero_copy.md R146). -/
theorem contents_winrdBody {off : Addr} {s : State} {r : Reply} (hb : winrdBody off s = .ok r) :
    contents r.state = contents s := by
  simp only [winrdBody] at hb
  split at hb <;> cases hb
  rfl

/-- ADVANCER removes the released bytes (41_zero_copy.md R147). -/
theorem contents_advancerBody {n : Word} {s : State} {r : Reply} (hw : s.wr.toNat < s.cap.toNat)
    (hr : s.rd.toNat < s.cap.toNat) (hgrant : GrantInv s) (hb : advancerBody n s = .ok r) :
    contents r.state = (contents s).drop n.toNat := by
  have hlen := hgrant.rgl_le.trans (contigAvail_le_avail ..)
  simp only [advancerBody] at hb
  split at hb <;> cases hb
  simp only [contents_setReadGrant]
  exact contents_ringDrop hw hr (by omega)

/-! ### The queue after the commands of each port -/

/-- Every command of P or C needs a configured block (10_state.md R22). -/
theorem needsConfig_of_mayIssue {p : Port} {i : Instr} (hp : p ≠ .K) (h : mayIssue p i = true) :
    needsConfig i = true := by
  cases i <;> simp_all [mayIssue, needsConfig]

/-- A command that P completes only adds bytes at the end of the queue. -/
theorem commandBody_P_appends {i : Instr} {s : State} {r : Reply} (hI : Inv s) (hbusy : s.busyP = true)
    (hactive : s.active = .P) (hg : genericFault i s = none) (hb : commandBody i s = .ok r) :
    ∃ added, contents r.state = contents s ++ added := by
  obtain ⟨-, hport, hneeds, -⟩ := (genericFault_eq_none i s).1 hg
  rw [hactive] at hport
  have hcfg := hneeds (needsConfig_of_mayIssue (by decide) hport)
  obtain ⟨hw, hr⟩ := hI.ring.cursors_lt hcfg
  obtain ⟨hsnap, hpast⟩ := hI.snaps.1 hcfg hbusy
  obtain ⟨-, hwf, -⟩ := hI.stores
  have hfree := freeBytes_snap_le hw hr hsnap hpast
  have hkeep (h : contents r.state = contents s) : ∃ added, contents r.state = contents s ++ added :=
    ⟨[], by rw [h, List.append_nil]⟩
  cases i with
  | avail => cases hb; exact hkeep rfl
  | free => cases hb; exact hkeep rfl
  | push => exact ⟨_, contents_pushBody hw hr hwf hfree hb⟩
  | push24 => exact ⟨_, contents_push24Body hw hr hwf hfree rfl hb⟩
  | push16to32 => exact ⟨_, contents_push16to32Body hw hr hwf hfree hb⟩
  | pushdsd => exact ⟨_, contents_pushdsdBody hw hr hwf hfree hb⟩
  | wregion => exact hkeep (contents_wregionBody hb)
  | winwr => exact hkeep (contents_winwrBody hw hr hI.grants hwf hb)
  | commitw => exact ⟨_, contents_commitwBody hw hr hI.grants hb⟩
  | resize | clear | fillsil | sethint | pop | rregion | winrd | advancer => simp [mayIssue] at hport

/-- A command that C completes only removes bytes from the front of the queue. -/
theorem commandBody_C_drops {i : Instr} {s : State} {r : Reply} (hI : Inv s) (hbusy : s.busyC = true)
    (hactive : s.active = .C) (hg : genericFault i s = none) (hb : commandBody i s = .ok r) :
    ∃ n, contents r.state = (contents s).drop n := by
  obtain ⟨-, hport, hneeds, -⟩ := (genericFault_eq_none i s).1 hg
  rw [hactive] at hport
  have hcfg := hneeds (needsConfig_of_mayIssue (by decide) hport)
  obtain ⟨hw, hr⟩ := hI.ring.cursors_lt hcfg
  obtain ⟨-, hseen⟩ := hI.snaps.2 hcfg hbusy
  cases i with
  | avail => cases hb; exact ⟨0, rfl⟩
  | free => cases hb; exact ⟨0, rfl⟩
  | pop => exact ⟨_, contents_popBody hw hr hseen hb⟩
  | rregion => exact ⟨0, contents_rregionBody hb⟩
  | winrd => exact ⟨0, contents_winrdBody hb⟩
  | advancer => exact ⟨_, contents_advancerBody hw hr hI.grants hb⟩
  | resize | clear | fillsil | sethint | push | push24 | push16to32 | pushdsd | wregion | winwr | commitw =>
    simp [mayIssue] at hport

/-- A command that K completes keeps the queue, empties it, or silences every byte of it. -/
theorem commandBody_K_controls {i : Instr} {s : State} {r : Reply} (hactive : s.active = .K)
    (hg : genericFault i s = none) (hb : commandBody i s = .ok r) :
    contents r.state = contents s ∨ contents r.state = [] ∨
      contents r.state = (contents s).map fun _ => s.silence := by
  obtain ⟨-, hport, -, -⟩ := (genericFault_eq_none i s).1 hg
  rw [hactive] at hport
  cases i with
  | resize len silence =>
    simp only [commandBody, resizeBody] at hb
    split_ifs at hb
    cases hb
    exact .inr (.inl (contents_eq_nil rfl))
  | clear => cases hb; exact .inr (.inl (contents_eq_nil rfl))
  | fillsil => cases hb; exact .inr (.inr (contents_clearedStorage s))
  | sethint hint => cases hb; exact .inl rfl
  | avail => cases hb; exact .inl rfl
  | free => cases hb; exact .inl rfl
  | push | push24 | push16to32 | pushdsd | wregion | winwr | commitw | pop | rregion | winrd | advancer =>
    simp [mayIssue] at hport

/-! ### The queue after each step -/

/-- A turn of a port keeps the queue, or leaves the one that the body of its pending command leaves. -/
theorem step_port_contents {p : Port} {ts : List Turn} {s t : State} (hs : s.turns = .port p :: ts)
    (h : step s = .next t) :
    contents t = contents s ∨
      ∃ d i r, pending p d s ∧ genericFault i (atTurn p ts s) = none ∧
        commandBody i (atTurn p ts s) = .ok r ∧ contents t = contents r.state := by
  obtain ⟨-, ⟨d, hd, hrun⟩ | ⟨-, -, d, ds, -, rfl⟩ | ⟨-, -, d, ds, -, rfl⟩ | rfl⟩ := step_port_cases hs h
  · obtain ⟨c, d', rfl⟩ | ⟨i, r, -, hg, hb, rfl⟩ := runDescriptor_cases hrun
    · exact .inl (by simp)
    · exact .inr ⟨d, i, r, hd, hg, hb, by simp⟩
  · exact .inl rfl
  · exact .inl rfl
  · exact .inl rfl

/-- Settles O45: the clauses of P, C and K by what each port's commands do to the queue, the others by what the turn
leaves. -/
theorem stepRefinesByteQueue : Obligations.StepRefinesByteQueue := by
  intro s t hI h
  refine ⟨fun ts hs => ?_, fun ts hs => ?_, fun ts hs => ?_, fun a b ts hs => ?_, fun ts hs => ?_, fun hs => ?_⟩
  · obtain hk | ⟨d, i, r, hd, hg, hb, ht⟩ := step_port_contents hs h
    · exact ⟨[], by rw [hk, List.append_nil]⟩
    · rw [ht, ← contents_atTurn .P ts s]
      exact commandBody_P_appends (hI.atTurn .P ts) hd.1 rfl hg hb
  · obtain hk | ⟨d, i, r, hd, hg, hb, ht⟩ := step_port_contents hs h
    · exact ⟨0, by rw [hk, List.drop_zero]⟩
    · rw [ht, ← contents_atTurn .C ts s]
      exact commandBody_C_drops (hI.atTurn .C ts) hd.1 rfl hg hb
  · obtain hk | ⟨d, i, r, -, hg, hb, ht⟩ := step_port_contents hs h
    · exact .inl hk
    · rw [ht, ← contents_atTurn .K ts s]
      exact commandBody_K_controls rfl hg hb
  · rw [step_hostStore_eq hs h]
    rfl
  · rw [step_reset_eq hs h]
    exact contents_eq_nil rfl
  · rw [step_idle_eq hs h]

end Sys2Proof.Machine

/-! A descriptor is recovered from the command it decodes to (30_encoding.md R94). -/

namespace Sys2Proof

/-! ### A descriptor that decodes is the one its command encodes to -/

/-- The command an opcode names carries that opcode (30_encoding.md R92). -/
theorem opcodeOf_of_decodeOpcode {d : Desc} {i : Instr} (h : decodeOpcode d = some i) : opcodeOf i = descOpc d := by
  refine BitVec.eq_of_toNat_eq ?_
  unfold decodeOpcode at h
  split at h <;> cases h <;> exact (‹(descOpc d).toNat = _›).symm

/-- With no reserved or unused bit set, the command's fields are all that the descriptor holds (R94). -/
theorem encode_of_decodeOpcode {d : Desc} {i : Instr} (h : decodeOpcode d = some i) (hrsv : descRsv d = 0#14)
    (hzero : unusedZero i d = true) : encode i = d := by
  have hopc := opcodeOf_of_decodeOpcode h
  rw [← descriptor_of_fields d hrsv]
  unfold decodeOpcode at h
  split at h <;> cases h <;>
    simp_all [unusedZero, usesImm, usesSwaps, usesLen, usesAddr, encode]

/-- A legal descriptor is recovered from its command (R94). -/
theorem encode_of_decode {d : Desc} {i : Instr} (h : decode d = .ok i) : encode i = d := by
  unfold decode at h
  split at h
  · cases h
  · rename_i j hj
    split_ifs at h with hrsv hzero hwf
    cases h
    exact encode_of_decodeOpcode hj (by simpa using hrsv) (by simpa using hzero)

end Sys2Proof

/-! What the body of every command leaves, said once, and what no body touches. -/

namespace Sys2Proof.Machine

/-! ### What the body of a command leaves -/

/-- The state after the effects of a command that passed its own check. The bounds are those the body itself
establishes: from the port's snapshot or its grant. -/
inductive BodyEffect (s : State) : Instr → State → Prop
  | avail : BodyEffect s .avail s
  | free : BodyEffect s .free s
  | winrd (off : Addr) : BodyEffect s (.winrd off) s
  | resize (len : Word) (b : Byte) {cap : Word} {j : Nat} (hj : j ≤ s.config.capMaxLog.val) (hcap : cap.toNat = 2 ^ j) :
      BodyEffect s (.resize len b) (revokeGrants { s with
        cap := cap, cfg := true, ring := [], wr := 0#32, rd := 0#32, silence := b })
  | clear : BodyEffect s .clear (revokeGrants { s with
      wr := 0#32, rd := 0#32, mode := .unknown, hint := none, conf := false, defcnt := 0#32 })
  | fillsil : BodyEffect s .fillsil (revokeGrants { s with ring := [] })
  | sethint (h : Byte) : BodyEffect s (.sethint h) (updateHint (hintOfCode h) s)
  | push (addr : Addr) (len : Word) {v : List Byte} (hfree : v.length ≤ freeBytes s.cap s.wr s.snapP) :
      BodyEffect s (.push addr len) (setWriteGrant 0#32 0#32 (ringPut v s))
  | push24 (addr : Addr) (len : Word) {v : List Byte} {a k : Nat} (m : Nat) (hk : k < 2 ^ 30)
      (hfree : v.length ≤ freeBytes s.cap s.wr s.snapP) (hscratch : v.length ≤ scratchBytes s.config) :
      BodyEffect s (.push24 addr len) (pushStaged v m (detectIfNeeded a k s)).state
  | push16to32 (addr : Addr) (len : Word) {v : List Byte} (m : Nat)
      (hfree : v.length ≤ freeBytes s.cap s.wr s.snapP) (hscratch : v.length ≤ scratchBytes s.config) :
      BodyEffect s (.push16to32 addr len) (pushStaged v m s).state
  | pushdsd (addr : Addr) (len : Word) (c : Byte) (br bs : Bool) {v : List Byte} (m : Nat)
      (hfree : v.length ≤ freeBytes s.cap s.wr s.snapP) (hscratch : v.length ≤ scratchBytes s.config) :
      BodyEffect s (.pushdsd addr len c br bs) (pushStaged v m s).state
  | grantWrite (len : Word) (hlen : len.toNat ≤ contigFree s.cap s.wr s.snapP) :
      BodyEffect s (.wregion len) (setWriteGrant s.wr len s)
  | refuseWrite (len : Word) : BodyEffect s (.wregion len) (setWriteGrant 0#32 0#32 s)
  | winwr (off : Addr) (b : Byte) (hin : inGrant s.wgb s.wgl off = true) :
      BodyEffect s (.winwr off b) { s with ring := Memory.write s.silence off.toNat b s.ring }
  | commitw (n : Word) (hn : n.toNat ≤ s.wgl.toNat) :
      BodyEffect s (.commitw n) (setWriteGrant 0#32 0#32 { s with wr := advance s.cap s.wr n.toNat })
  | pop (addr : Addr) (len : Word) {v : List Byte} {n : Nat} (hv : v.length = n) (hlen : n ≤ len.toNat)
      (havail : n ≤ availBytes s.cap s.snapC s.rd) (hhost : hostRangeOK s.config addr.toNat n = true) :
      BodyEffect s (.pop addr len) (setReadGrant 0#32 0#32 (memWrite addr.toNat v (ringDrop n s)))
  | grantRead (len : Word) (hlen : len.toNat ≤ contigAvail s.cap s.snapC s.rd) :
      BodyEffect s (.rregion len) (setReadGrant s.rd len s)
  | refuseRead (len : Word) : BodyEffect s (.rregion len) (setReadGrant 0#32 0#32 s)
  | advancer (n : Word) (hn : n.toNat ≤ s.rgl.toNat) :
      BodyEffect s (.advancer n) (setReadGrant 0#32 0#32 (ringDrop n.toNat s))

/-- A rounded capacity within `CAP_MAX` is one of the powers of two up to it (40_ring_control.md R121). -/
theorem exists_pow_of_roundCapacity_le {c : Config} {n : Nat} (h : roundCapacity n ≤ capMax c) :
    ∃ j, j ≤ c.capMaxLog.val ∧ (BitVec.ofNat 32 (roundCapacity n)).toNat = 2 ^ j := by
  have hmax := capMax_le c
  obtain hn | hn := Nat.lt_or_ge (2 ^ 31) n
  · rw [roundCapacity_beyond n hn] at h
    omega
  obtain ⟨j, -, hj, -⟩ := roundCapacity_spec n hn
  rw [hj] at h ⊢
  refine ⟨j, (Nat.pow_le_pow_iff_right (by decide)).1 h, ?_⟩
  rw [BitVec.toNat_ofNat, Nat.mod_eq_of_lt (by omega)]

/-- Every body that passes its own check has its effect. -/
theorem commandBody_effect {i : Instr} {s : State} {r : Reply} (h : commandBody i s = .ok r) :
    BodyEffect s i r.state := by
  cases i with
  | avail => cases h; exact .avail
  | free => cases h; exact .free
  | clear => cases h; exact .clear
  | fillsil => cases h; exact .fillsil
  | sethint hint => cases h; exact .sethint hint
  | resize len b =>
    simp only [commandBody, resizeBody] at h
    split_ifs at h with h0 hmax
    cases h
    obtain ⟨j, hj, hcap⟩ := exists_pow_of_roundCapacity_le (Nat.le_of_not_lt hmax)
    exact .resize len b hj hcap
  | push addr len =>
    simp only [commandBody, pushBody] at h
    split at h <;> cases h
    exact .push addr len (by rw [length_memRead]; exact Nat.min_le_right ..)
  | push24 addr len =>
    simp only [commandBody, push24Body] at h
    split at h <;> cases h
    obtain ⟨hreq, hscratch, hfree⟩ := clampUnits_le s (len.toNat / 4) 3
    exact .push24 addr len _ (by omega) (by rwa [length_staged24]) (by rwa [length_staged24])
  | push16to32 addr len =>
    simp only [commandBody, push16to32Body] at h
    split at h <;> cases h
    obtain ⟨-, hscratch, hfree⟩ := clampUnits_le s (len.toNat / 2) 4
    exact .push16to32 addr len _ (by rwa [length_staged16]) (by rwa [length_staged16])
  | pushdsd addr len c br bs =>
    simp only [commandBody, pushdsdBody] at h
    split_ifs at h
    cases h
    obtain ⟨-, hscratch, hfree⟩ := clampUnits_le s (len.toNat / c.toNat / 4) (4 * c.toNat)
    exact .pushdsd addr len c br bs _ (by rwa [length_interleave]) (by rwa [length_interleave])
  | wregion len =>
    simp only [commandBody, wregionBody] at h
    split at h <;> cases h
    · exact .grantWrite len ‹_›
    · exact .refuseWrite len
  | winwr off b =>
    simp only [commandBody, winwrBody] at h
    split at h <;> cases h
    exact .winwr off b (eq_true_of_ne_false ‹_›)
  | commitw n =>
    simp only [commandBody, commitwBody] at h
    split at h <;> cases h
    exact .commitw n (Nat.le_of_not_lt ‹_›)
  | pop addr len =>
    simp only [commandBody, popBody] at h
    split at h <;> cases h
    exact .pop addr len (length_ringBytes ..) (Nat.min_le_left ..) (Nat.min_le_right ..) (eq_true_of_ne_false ‹_›)
  | rregion len =>
    simp only [commandBody, rregionBody] at h
    split at h <;> cases h
    · exact .grantRead len ‹_›
    · exact .refuseRead len
  | winrd off =>
    simp only [commandBody, winrdBody] at h
    split at h <;> cases h
    exact .winrd off
  | advancer n =>
    simp only [commandBody, advancerBody] at h
    split at h <;> cases h
    exact .advancer n (Nat.le_of_not_lt ‹_›)

/-- The parts of the state that belong to the ports, the fault record, the agents and the platform. -/
structure SameSurroundings (s u : State) : Prop where
  config : u.config = s.config
  rvalP : u.rvalP = s.rvalP
  rvalC : u.rvalC = s.rvalC
  rvalK : u.rvalK = s.rvalK
  rokP : u.rokP = s.rokP
  rokC : u.rokC = s.rokC
  rokK : u.rokK = s.rokK
  busyP : u.busyP = s.busyP
  busyC : u.busyC = s.busyC
  latchP : u.latchP = s.latchP
  latchC : u.latchC = s.latchC
  snapP : u.snapP = s.snapP
  snapC : u.snapC = s.snapC
  fault : u.fault = s.fault
  fcode : u.fcode = s.fcode
  fport : u.fport = s.fport
  fdesc : u.fdesc = s.fdesc
  offersP : u.offersP = s.offersP
  offersC : u.offersC = s.offersC
  offersK : u.offersK = s.offersK
  turns : u.turns = s.turns
  active : u.active = s.active

/-- No body touches them: only `finish` and `raiseFault` write results, busy flags and the record. -/
theorem BodyEffect.surroundings {i : Instr} {s u : State} (h : BodyEffect s i u) : SameSurroundings s u := by
  cases h <;> constructor <;> simp [pushStaged]

end Sys2Proof.Machine

/-! What a command, a descriptor and a step can do, and when. -/

namespace Sys2Proof.Machine

/-! ### What a command and a descriptor can do -/

/-- A command writes the fault record and nothing else, or passes every check, has its effect and writes its result. -/
theorem exec_cases {i : Instr} {s t : State} (h : exec i s = .next t) :
    (∃ c, t = raiseFault c (encode i) s) ∨
      ∃ r, genericFault i s = none ∧ commandBody i s = .ok r ∧ t = finish r.val r.ok r.state := by
  rw [exec_eq_runCommand] at h
  obtain ⟨c, -, ht⟩ | ⟨c, -, -, ht⟩ | hr := runCommand_cases _ _ _ _ h
  · exact .inl ⟨c, ht⟩
  · exact .inl ⟨c, ht⟩
  · exact .inr hr

/-- The same with the effect in place of the body. -/
theorem exec_effect {i : Instr} {s t : State} (h : exec i s = .next t) :
    (∃ c, t = raiseFault c (encode i) s) ∨
      ∃ v ok u, genericFault i s = none ∧ BodyEffect s i u ∧ t = finish v ok u := by
  obtain hf | ⟨r, hg, hb, ht⟩ := exec_cases h
  · exact .inl hf
  · exact .inr ⟨_, _, _, hg, commandBody_effect hb, ht⟩

/-- A descriptor that runs takes a fault that names it, or its command has its effect and writes its result. -/
theorem runDescriptor_effect {d : Desc} {s t : State} (h : runDescriptor d s = .next t) :
    (∃ c, t = raiseFault c d s) ∨
      ∃ i v ok u, decode d = .ok i ∧ genericFault i s = none ∧ BodyEffect s i u ∧ t = finish v ok u := by
  unfold runDescriptor at h
  split at h
  · exact .inl ⟨_, (Host.Outcome.next.inj h).symm⟩
  · rename_i i hd
    obtain ⟨c, ht⟩ | ⟨v, ok, u, hg, hu, ht⟩ := exec_effect h
    · exact .inl ⟨c, by rw [ht, encode_of_decode hd]⟩
    · exact .inr ⟨i, v, ok, u, hd, hg, hu, ht⟩

theorem runDescriptor_of_decode {d : Desc} {i : Instr} (hd : decode d = .ok i) (s : State) :
    runDescriptor d s = exec i s := by
  simp [runDescriptor, hd]

/-- A descriptor always takes a next state. -/
theorem runDescriptor_next (d : Desc) (s : State) : ∃ t, runDescriptor d s = .next t := by
  unfold runDescriptor
  split
  · exact ⟨_, rfl⟩
  · rw [exec_eq_runCommand]
    exact runCommand_next ..

/-- The record that `raiseFault` writes, with the port's code written out (60_exceptions.md R231). -/
theorem raiseFault_eq_withRecord (c : FaultCode) (d : Desc) (s : State) :
    raiseFault c d s = withRecord (faultCode c) d s := by
  unfold raiseFault withRecord
  cases s.active <;> rfl

/-! ### The shared checks in terms of opcodes -/

/-- The port check is the column "port" of 30_encoding.md R92. -/
theorem mayIssue_iff (p : Port) (i : Instr) : mayIssue p i = true ↔ PortAllowed p (opcodeOf i).toNat := by
  cases i <;> cases p <;> simp [mayIssue, PortAllowed, opcodeOf]

/-- All commands but RESIZE and SETHINT need a configured block (10_state.md R22). -/
theorem needsConfig_iff (i : Instr) :
    needsConfig i = true ↔ (opcodeOf i).toNat ≠ 0x01 ∧ (opcodeOf i).toNat ≠ 0x04 := by
  cases i <;> simp [needsConfig, opcodeOf]

theorem genericFault_eq_notConfigured {i : Instr} {s : State} (hwf : i.wellFormed = true)
    (hport : mayIssue s.active i = true) (hneeds : needsConfig i = true) (hcfg : s.cfg = false) :
    genericFault i s = some .notConfigured := by
  simp [genericFault, hwf, hport, hneeds, hcfg]

/-! ### What a turn does -/

theorem step_port_halted {s : State} {p : Port} {ts : List Turn} (hf : s.fault = true)
    (hs : s.turns = .port p :: ts) : step s = .fault .halted := by
  simp [step, hs, takeTurn, stepPort, hf]

/-- A turn of a port whose descriptor is pending runs that descriptor (10_state.md R43, R44). -/
theorem step_port_pending {s : State} {p : Port} {d : Desc} {ts : List Turn} (hf : s.fault = false)
    (hs : s.turns = .port p :: ts) (hd : pending p d s) : step s = runDescriptor d (atTurn p ts s) := by
  cases p with
  | P =>
    obtain ⟨hbusy, rfl⟩ := hd
    simp [step, hs, takeTurn, stepPort, hf, stepP, hbusy, atTurn]
  | C =>
    obtain ⟨hbusy, rfl⟩ := hd
    simp [step, hs, takeTurn, stepPort, hf, stepC, hbusy, atTurn]
  | K =>
    obtain ⟨ds, ho⟩ := List.head?_eq_some_iff.1 hd
    simp [step, hs, takeTurn, stepPort, hf, stepK, ho, atTurn]

/-- What one step leaves: the turn of a port ends in a fault, in the effect and the result of its pending command, in
an ISSUE, or finds nothing to do. -/
inductive StepEffect (s : State) : State → Prop
  | idle (hs : s.turns = []) : StepEffect s s
  | reset {ts : List Turn} (hs : s.turns = .reset :: ts) : StepEffect s (resetBlock { s with turns := ts })
  | hostStore {a : Addr} {b : Byte} {ts : List Turn} (hs : s.turns = .hostStore a b :: ts) :
      StepEffect s { s with turns := ts, hmem := Memory.write hostFill a.toNat b s.hmem }
  | fault {p : Port} {ts : List Turn} {d : Desc} (c : FaultCode) (hs : s.turns = .port p :: ts)
      (hf : s.fault = false) (hd : pending p d s) : StepEffect s (raiseFault c d (atTurn p ts s))
  | command {p : Port} {ts : List Turn} {d : Desc} {i : Instr} {u : State} (v : Word) (ok : Bool)
      (hs : s.turns = .port p :: ts) (hf : s.fault = false) (hd : pending p d s) (hdec : decode d = .ok i)
      (hg : genericFault i (atTurn p ts s) = none) (hu : BodyEffect (atTurn p ts s) i u) :
      StepEffect s (finish v ok u)
  | issueP {ts : List Turn} {d : Desc} {ds : List Desc} (hs : s.turns = .port .P :: ts) (hf : s.fault = false)
      (hbusy : s.busyP = false) (ho : s.offersP = d :: ds) :
      StepEffect s (issueP d { s with turns := ts, active := .P, offersP := ds })
  | issueC {ts : List Turn} {d : Desc} {ds : List Desc} (hs : s.turns = .port .C :: ts) (hf : s.fault = false)
      (hbusy : s.busyC = false) (ho : s.offersC = d :: ds) :
      StepEffect s (issueC d { s with turns := ts, active := .C, offersC := ds })
  | wait {p : Port} {ts : List Turn} (hs : s.turns = .port p :: ts) (hf : s.fault = false) :
      StepEffect s { s with turns := ts, active := p }

/-- Every step that takes a next state has one of these outcomes. -/
theorem step_effect {s t : State} (h : step s = .next t) : StepEffect s t := by
  match hs : s.turns with
  | [] => rw [step_idle_eq hs h]; exact .idle hs
  | .reset :: ts => rw [step_reset_eq hs h]; exact .reset hs
  | .hostStore a b :: ts => rw [step_hostStore_eq hs h]; exact .hostStore hs
  | .port p :: ts =>
    obtain ⟨hf, ⟨d, hd, hrun⟩ | ⟨rfl, hbusy, d, ds, ho, rfl⟩ | ⟨rfl, hbusy, d, ds, ho, rfl⟩ | rfl⟩ :=
      step_port_cases hs h
    · obtain ⟨c, rfl⟩ | ⟨i, v, ok, u, hdec, hg, hu, rfl⟩ := runDescriptor_effect hrun
      · exact .fault c hs hf hd
      · exact .command v ok hs hf hd hdec hg hu
    · exact .issueP hs hf hbusy ho
    · exact .issueC hs hf hbusy ho
    · exact .wait hs hf

@[simp] theorem atTurn_turns (p : Port) (ts : List Turn) (s : State) : (atTurn p ts s).turns = ts := by
  cases p <;> rfl
@[simp] theorem atTurn_active (p : Port) (ts : List Turn) (s : State) : (atTurn p ts s).active = p := by
  cases p <;> rfl
@[simp] theorem atTurn_config (p : Port) (ts : List Turn) (s : State) : (atTurn p ts s).config = s.config := by
  cases p <;> rfl
@[simp] theorem atTurn_cfg (p : Port) (ts : List Turn) (s : State) : (atTurn p ts s).cfg = s.cfg := by
  cases p <;> rfl
@[simp] theorem atTurn_wr (p : Port) (ts : List Turn) (s : State) : (atTurn p ts s).wr = s.wr := by
  cases p <;> rfl
@[simp] theorem atTurn_rd (p : Port) (ts : List Turn) (s : State) : (atTurn p ts s).rd = s.rd := by
  cases p <;> rfl
@[simp] theorem atTurn_fault (p : Port) (ts : List Turn) (s : State) : (atTurn p ts s).fault = s.fault := by
  cases p <;> rfl
@[simp] theorem atTurn_busyP (p : Port) (ts : List Turn) (s : State) : (atTurn p ts s).busyP = s.busyP := by
  cases p <;> rfl
@[simp] theorem atTurn_busyC (p : Port) (ts : List Turn) (s : State) : (atTurn p ts s).busyC = s.busyC := by
  cases p <;> rfl

end Sys2Proof.Machine

/-! The invariant of Safety.lean: every step keeps it. -/

namespace Sys2Proof.Machine

/-! ### Cursor arithmetic of a moved cursor -/

theorem advance_zero {cap c : Word} (h : c.toNat < cap.toNat) : advance cap c 0 = c := by
  refine BitVec.eq_of_toNat_eq ?_
  rw [advance_toNat _ _ _ (by omega), Nat.add_zero, Nat.mod_eq_of_lt h]

theorem availBytes_self (cap c : Word) : availBytes cap c c = 0 := by
  simp [availBytes]

/-- One slot is always reserved (10_state.md R29). -/
theorem freeBytes_add_availBytes {cap w r : Word} (hw : w.toNat < cap.toNat) (hr : r.toNat < cap.toNat) :
    freeBytes cap w r + availBytes cap w r = cap.toNat - 1 := by
  rw [freeBytes_eq cap w r hw hr, availBytes_eq cap w r hw hr]
  split_ifs <;> omega

/-- Releasing available bytes makes that many more free. -/
theorem freeBytes_advance_rd {cap w r : Word} {n : Nat} (hw : w.toNat < cap.toNat) (hr : r.toNat < cap.toNat)
    (hn : n ≤ availBytes cap w r) : freeBytes cap w (advance cap r n) = freeBytes cap w r + n := by
  have hold := freeBytes_add_availBytes hw hr
  have hnew := freeBytes_add_availBytes hw (advance_lt cap r n (by omega))
  rw [availBytes_advance_rd hw hr hn] at hnew
  omega

/-- A read cursor that moves over available bytes stays behind the write cursor, seen from a value it had before. -/
theorem availBytes_advance_snap_le {cap w r p : Word} {n : Nat} (hw : w.toNat < cap.toNat) (hr : r.toNat < cap.toNat)
    (hp : p.toNat < cap.toNat) (h : availBytes cap r p ≤ availBytes cap w p) (hn : n ≤ availBytes cap w r) :
    availBytes cap (advance cap r n) p ≤ availBytes cap w p := by
  have hlt := availBytes_lt cap w r (by omega)
  rw [availBytes_eq _ _ _ (advance_lt cap r n (by omega)) hp, advance_eq cap r n hr (by omega)]
  rw [availBytes_eq cap w r hw hr] at hn hlt
  rw [availBytes_eq cap r p hr hp, availBytes_eq cap w p hw hp] at h
  rw [availBytes_eq cap w p hw hp]
  split_ifs at hn hlt h ⊢ <;> omega

/-- More free bytes, more contiguous free bytes (41_zero_copy.md R140). -/
theorem contigFree_mono {cap w r r' : Word} (h : freeBytes cap w r ≤ freeBytes cap w r') :
    contigFree cap w r ≤ contigFree cap w r' := min_le_min_right _ h

/-- More available bytes, more contiguous available bytes (41_zero_copy.md R141). -/
theorem contigAvail_mono {cap w w' r : Word} (h : availBytes cap w r ≤ availBytes cap w' r) :
    contigAvail cap w r ≤ contigAvail cap w' r := min_le_min_right _ h

/-- The ring invariant of a configured block. -/
theorem ringInv_iff {s : State} (h : s.cfg = true) :
    RingInv s ↔ (∃ j, j ≤ s.config.capMaxLog.val ∧ s.cap.toNat = 2 ^ j) ∧ s.wr.toNat < s.cap.toNat ∧
      s.rd.toNat < s.cap.toNat := by
  rw [RingInv, if_pos h]

/-- Moving the cursors below the capacity of a configured block keeps the ring invariant. -/
theorem RingInv.of_cursors_lt {s u : State} (h : RingInv s) (hs : s.cfg = true) (hconfig : u.config = s.config)
    (hcfg : u.cfg = s.cfg) (hcap : u.cap = s.cap) (hw : u.wr.toNat < s.cap.toNat) (hr : u.rd.toNat < s.cap.toNat) :
    RingInv u := by
  obtain ⟨hpow, -⟩ := (ringInv_iff hs).1 h
  rw [ringInv_iff (hcfg.trans hs), hconfig, hcap]
  exact ⟨hpow, hw, hr⟩

/-! ### What the commands of each port move -/

/-- A P command moves `WR` forward over free bytes and leaves the consumer's side alone (10_state.md R24). -/
structure ProducerMove (s u : State) : Prop where
  cfg : u.cfg = s.cfg
  cap : u.cap = s.cap
  rd : u.rd = s.rd
  rgb : u.rgb = s.rgb
  rgl : u.rgl = s.rgl
  wr : ∃ n, n ≤ freeBytes s.cap s.wr s.rd ∧ u.wr = advance s.cap s.wr n

/-- A C command moves `RD` forward over available bytes and leaves the producer's side alone (10_state.md R25). -/
structure ConsumerMove (s u : State) : Prop where
  cfg : u.cfg = s.cfg
  cap : u.cap = s.cap
  wr : u.wr = s.wr
  wgb : u.wgb = s.wgb
  wgl : u.wgl = s.wgl
  rd : ∃ n, n ≤ availBytes s.cap s.wr s.rd ∧ u.rd = advance s.cap s.rd n

section Ports

variable {i : Instr} {s u : State} (hI : Inv s) (hg : genericFault i s = none) (hu : BodyEffect s i u)

include hI hg

/-- A command of P or C that passed the shared checks runs in a configured block. -/
theorem configured_of_genericFault (hactive : s.active ≠ .K) :
    s.cfg = true ∧ s.wr.toNat < s.cap.toNat ∧ s.rd.toNat < s.cap.toNat := by
  obtain ⟨-, hport, hneeds, -⟩ := (genericFault_eq_none i s).1 hg
  have hcfg := hneeds (needsConfig_of_mayIssue hactive hport)
  exact ⟨hcfg, hI.ring.cursors_lt hcfg⟩

/-- The free bytes that a P command counts from its snapshot are free (20_memory.md R72). -/
theorem freeBytes_snapP_le (hactive : s.active = .P) (hbusy : s.busyP = true) :
    freeBytes s.cap s.wr s.snapP ≤ freeBytes s.cap s.wr s.rd := by
  obtain ⟨hcfg, hw, hr⟩ := configured_of_genericFault hI hg (by simp [hactive])
  obtain ⟨hsnap, hpast⟩ := hI.snaps.1 hcfg hbusy
  exact freeBytes_snap_le hw hr hsnap hpast

/-- The bytes that a C command counts from its snapshot are available (20_memory.md R72). -/
theorem availBytes_snapC_le (hactive : s.active = .C) (hbusy : s.busyC = true) :
    availBytes s.cap s.snapC s.rd ≤ availBytes s.cap s.wr s.rd := by
  obtain ⟨hcfg, -⟩ := configured_of_genericFault hI hg (by simp [hactive])
  exact (hI.snaps.2 hcfg hbusy).2

include hu

theorem BodyEffect.producerMove (hactive : s.active = .P) (hbusy : s.busyP = true) : ProducerMove s u := by
  obtain ⟨-, hport, -⟩ := (genericFault_eq_none i s).1 hg
  rw [hactive] at hport
  obtain ⟨-, hw, -⟩ := configured_of_genericFault hI hg (by simp [hactive])
  have hle := freeBytes_snapP_le hI hg hactive hbusy
  have hstay : ∃ n, n ≤ freeBytes s.cap s.wr s.rd ∧ s.wr = advance s.cap s.wr n :=
    ⟨0, Nat.zero_le _, (advance_zero hw).symm⟩
  cases hu with
  | avail | free | grantWrite | refuseWrite | winwr => exact ⟨rfl, rfl, rfl, rfl, rfl, hstay⟩
  | push _ _ hfree => exact ⟨rfl, rfl, rfl, rfl, rfl, _, hfree.trans hle, rfl⟩
  | push16to32 _ _ _ hfree | pushdsd _ _ _ _ _ _ hfree =>
    exact ⟨rfl, rfl, rfl, rfl, rfl, _, hfree.trans hle, rfl⟩
  | push24 _ _ _ _ hfree =>
    exact ⟨by simp [pushStaged], by simp [pushStaged], by simp [pushStaged], by simp [pushStaged],
      by simp [pushStaged], _, hfree.trans hle, by simp [pushStaged]⟩
  | commitw n hn =>
    exact ⟨rfl, rfl, rfl, rfl, rfl, _, hn.trans (hI.grants.wgl_le.trans (contigFree_le_free ..)), rfl⟩
  | winrd | resize | clear | fillsil | sethint | pop | grantRead | refuseRead | advancer => simp [mayIssue] at hport

theorem BodyEffect.consumerMove (hactive : s.active = .C) (hbusy : s.busyC = true) : ConsumerMove s u := by
  obtain ⟨-, hport, -⟩ := (genericFault_eq_none i s).1 hg
  rw [hactive] at hport
  obtain ⟨-, -, hr⟩ := configured_of_genericFault hI hg (by simp [hactive])
  have hstay : ∃ n, n ≤ availBytes s.cap s.wr s.rd ∧ s.rd = advance s.cap s.rd n :=
    ⟨0, Nat.zero_le _, (advance_zero hr).symm⟩
  cases hu with
  | avail | free | winrd | grantRead | refuseRead => exact ⟨rfl, rfl, rfl, rfl, rfl, hstay⟩
  | pop _ _ _ _ havail =>
    exact ⟨rfl, rfl, rfl, rfl, rfl, _, havail.trans (availBytes_snapC_le hI hg hactive hbusy), rfl⟩
  | advancer n hn =>
    exact ⟨rfl, rfl, rfl, rfl, rfl, _, hn.trans (hI.grants.rgl_le.trans (contigAvail_le_avail ..)), rfl⟩
  | resize | clear | fillsil | sethint | push | push24 | push16to32 | pushdsd | grantWrite | refuseWrite | winwr
  | commitw => simp [mayIssue] at hport

end Ports

/-! ### Each part of the invariant after a command's effects -/

/-- Deferral keeps the alignment state legal: the count was at most the threshold, and one PUSH24 adds fewer than
`2^30` containers (10_state.md R33, 43_format_push.md R196). -/
theorem AlignInv.deferUnits {s : State} (h : AlignInv s) (hconf : s.conf = false) {k : Nat} (hk : k < 2 ^ 30) :
    AlignInv (deferUnits k s) := by
  obtain ⟨-, -, hcount, -⟩ := h
  have hle := hcount hconf
  have hthr : deferThreshold s.config < 2 ^ 31 := s.config.deferThreshold.isLt
  have hcnt : (BitVec.ofNat 32 (s.defcnt.toNat + k)).toNat = s.defcnt.toNat + k := by
    rw [BitVec.toNat_ofNat, Nat.mod_eq_of_lt (by omega)]
  unfold Machine.deferUnits
  dsimp only
  split
  · refine ⟨fun _ => ?_, nofun, nofun, by simp only [hcnt]; omega⟩
    cases sideOfHint s.hint <;> simp [modeOfSide]
  · refine ⟨fun hc => ?_, fun _ => .inr (.inl rfl), fun _ => by simp only [hcnt]; omega, by simp only [hcnt]; omega⟩
    exact absurd (hconf.symm.trans hc) (by decide)

/-- Classification of a window confirms LsbAligned or MsbAligned, or defers (43_format_push.md R194 to R196). -/
theorem AlignInv.detectIfNeeded {s : State} (h : AlignInv s) (a : Nat) {k : Nat} (hk : k < 2 ^ 30) :
    AlignInv (detectIfNeeded a k s) := by
  obtain ⟨-, -, -, hbound⟩ := id h
  unfold Machine.detectIfNeeded
  split
  · rename_i hrun
    unfold detect
    dsimp only
    split
    · exact h.deferUnits hrun.1 hk
    · exact ⟨fun _ => .inl rfl, nofun, nofun, hbound⟩
    · exact ⟨fun _ => .inr rfl, nofun, nofun, hbound⟩
    · exact ⟨fun _ => .inl rfl, nofun, nofun, hbound⟩
  · exact h

theorem BodyEffect.alignInv {i : Instr} {s u : State} (hu : BodyEffect s i u) (h : AlignInv s) : AlignInv u := by
  cases hu with
  | clear => exact ⟨nofun, fun _ => .inl rfl, fun _ => Nat.zero_le _, Nat.zero_le _⟩
  | sethint c =>
    refine ⟨nofun, fun _ => ?_, fun _ => Nat.zero_le _, Nat.zero_le _⟩
    cases hintOfCode c with
    | none => exact .inl rfl
    | some side => exact .inr (.inr ⟨by simp, rfl⟩)
  | push24 _ _ m hk => exact h.detectIfNeeded _ hk
  | _ => exact h

theorem StoresInv.ringPut {s : State} (h : StoresInv s) {v : List Byte} {r : Word} (hw : s.wr.toNat < s.cap.toNat)
    (hv : v.length ≤ freeBytes s.cap s.wr r) : StoresInv (ringPut v s) := by
  obtain ⟨hhost, hring, hscratch⟩ := h
  have hlt := freeBytes_lt s.cap s.wr r (by omega)
  exact ⟨hhost, ringPut_wf v s hring hw (by omega), hscratch⟩

/-- Staging writes no more than the scratch buffer holds (43_format_push.md R190, R191). -/
theorem StoresInv.pushStaged {s : State} (h : StoresInv s) {v : List Byte} {r : Word} (m : Nat)
    (hw : s.wr.toNat < s.cap.toNat) (hv : v.length ≤ freeBytes s.cap s.wr r)
    (hscratch : v.length ≤ scratchBytes s.config) : StoresInv (pushStaged v m s).state := by
  obtain ⟨hhost, hring, hold⟩ := h
  have hstaged : StoresInv { s with scratch := Memory.writeList scratchFill 0 v s.scratch } :=
    ⟨hhost, hring, Memory.writeList_wf _ _ _ _ _ hold (by rwa [Nat.zero_add])⟩
  exact hstaged.ringPut hw hv

/-- A buffer that passed the check of 20_memory.md R63 ends inside host memory, even if it is empty. -/
theorem addr_add_le_hostSize {c : Config} {addr : Addr} {n : Nat} (h : hostRangeOK c addr.toNat n = true) :
    addr.toNat + n ≤ hostSize := by
  obtain rfl | hpos := Nat.eq_zero_or_pos n
  · exact Nat.le_of_lt addr.isLt
  · exact hostRangeOK_size c addr.toNat n h hpos

/-- Every store a body makes lies inside its address space: ring bytes by the cursors and the grant, host bytes by the
check of 20_memory.md R63. -/
theorem BodyEffect.storesInv {i : Instr} {s u : State} (hu : BodyEffect s i u) (hI : Inv s)
    (hg : genericFault i s = none) : StoresInv u := by
  obtain ⟨-, -, hneeds, -⟩ := (genericFault_eq_none i s).1 hg
  have hcursors : needsConfig i = true → s.wr.toNat < s.cap.toNat ∧ s.rd.toNat < s.cap.toNat :=
    fun h => hI.ring.cursors_lt (hneeds h)
  have hS := hI.stores
  obtain ⟨hhost, hring, hscratch⟩ := id hS
  cases hu with
  | resize | fillsil => exact ⟨hhost, rfl, hscratch⟩
  | push _ _ hfree => exact hS.ringPut (hcursors rfl).1 hfree
  | push16to32 _ _ _ hfree hfit | pushdsd _ _ _ _ _ _ hfree hfit =>
    exact hS.pushStaged _ (hcursors rfl).1 hfree hfit
  | push24 _ _ _ _ hfree hfit =>
    refine StoresInv.pushStaged (r := s.snapP) ?_ _ ?_ ?_ ?_
    · simpa [StoresInv] using hS
    · simpa using (hcursors rfl).1
    · simpa using hfree
    · simpa using hfit
  | winwr off b hin =>
    obtain ⟨hlo, hhi⟩ := (inGrant_iff s.wgb s.wgl off).1 hin
    obtain ⟨hbase, hlen⟩ := hI.grants.1 (by rintro h0; simp [h0] at hhi; omega)
    have hend := hlen.trans (contigFree_le_end ..)
    have hoff : off.toNat < s.cap.toNat := by
      rw [hbase] at hhi
      have hw := (hcursors rfl).1
      omega
    exact ⟨hhost, Memory.write_wf _ _ _ _ _ hring hoff, hscratch⟩
  | @pop addr len v n hv _ _ hok =>
    subst hv
    exact ⟨Memory.writeList_wf _ _ _ _ _ hhost (addr_add_le_hostSize hok), hring, hscratch⟩
  | _ => exact hS

/-- The write grant that a P command leaves starts at `WR` and lies in the contiguous free bytes. -/
theorem BodyEffect.writeGrant {i : Instr} {s u : State} (hu : BodyEffect s i u) (hI : Inv s)
    (hg : genericFault i s = none) (hactive : s.active = .P) (hbusy : s.busyP = true) (hne : u.wgl ≠ 0#32) :
    u.wgb = u.wr ∧ u.wgl.toNat ≤ contigFree u.cap u.wr u.rd := by
  obtain ⟨-, hport, -⟩ := (genericFault_eq_none i s).1 hg
  rw [hactive] at hport
  cases hu with
  | avail | free | winwr => exact hI.grants.1 hne
  | push | push24 | push16to32 | pushdsd | refuseWrite | commitw => exact absurd rfl hne
  | grantWrite len hlen =>
    exact ⟨rfl, hlen.trans (contigFree_mono (freeBytes_snapP_le hI hg hactive hbusy))⟩
  | winrd | resize | clear | fillsil | sethint | pop | grantRead | refuseRead | advancer => simp [mayIssue] at hport

/-- The read grant that a C command leaves starts at `RD` and lies in the contiguous available bytes. -/
theorem BodyEffect.readGrant {i : Instr} {s u : State} (hu : BodyEffect s i u) (hI : Inv s)
    (hg : genericFault i s = none) (hactive : s.active = .C) (hbusy : s.busyC = true) (hne : u.rgl ≠ 0#32) :
    u.rgb = u.rd ∧ u.rgl.toNat ≤ contigAvail u.cap u.wr u.rd := by
  obtain ⟨-, hport, -⟩ := (genericFault_eq_none i s).1 hg
  rw [hactive] at hport
  cases hu with
  | avail | free | winrd => exact hI.grants.2 hne
  | pop | refuseRead | advancer => exact absurd rfl hne
  | grantRead len hlen =>
    exact ⟨rfl, hlen.trans (contigAvail_mono (availBytes_snapC_le hI hg hactive hbusy))⟩
  | resize | clear | fillsil | sethint | push | push24 | push16to32 | pushdsd | grantWrite | refuseWrite | winwr
  | commitw => simp [mayIssue] at hport

/-- A K command that passed the shared checks leaves the ring configured, or as it was, with no grant or as they
were. -/
theorem BodyEffect.ring_grants_K {i : Instr} {s u : State} (hu : BodyEffect s i u) (hI : Inv s)
    (hg : genericFault i s = none) (hactive : s.active = .K) : RingInv u ∧ GrantInv u := by
  obtain ⟨-, hport, hneeds, -⟩ := (genericFault_eq_none i s).1 hg
  rw [hactive] at hport
  have hrevoked : ∀ x : State, GrantInv (revokeGrants x) := fun x => ⟨absurd rfl, absurd rfl⟩
  cases hu with
  | avail | free | sethint => exact ⟨hI.ring, hI.grants⟩
  | resize len b hj hcap =>
    exact ⟨(ringInv_iff rfl).2 ⟨⟨_, hj, hcap⟩, by simp [hcap], by simp [hcap]⟩, hrevoked _⟩
  | clear =>
    obtain ⟨hw, -⟩ := hI.ring.cursors_lt (hneeds rfl)
    have hpos : 0 < s.cap.toNat := Nat.zero_lt_of_lt hw
    exact ⟨hI.ring.of_cursors_lt (hneeds rfl) rfl rfl rfl hpos hpos, hrevoked _⟩
  | fillsil =>
    obtain ⟨hw, hr⟩ := hI.ring.cursors_lt (hneeds rfl)
    exact ⟨hI.ring.of_cursors_lt (hneeds rfl) rfl rfl rfl hw hr, hrevoked _⟩
  | winrd | push | push24 | push16to32 | pushdsd | grantWrite | refuseWrite | winwr | commitw | pop | grantRead
  | refuseRead | advancer => simp [mayIssue] at hport

/-- A K command that reconfigures runs on a quiescent block, where no snapshot is in use; AVAIL and FREE change no
cursor. -/
theorem BodyEffect.snapInv_K {i : Instr} {s u : State} (hu : BodyEffect s i u) (hI : Inv s)
    (hg : genericFault i s = none) (hactive : s.active = .K) : SnapInv u := by
  obtain ⟨-, hport, -, hquiet⟩ := (genericFault_eq_none i s).1 hg
  rw [hactive] at hport
  cases hu with
  | avail | free => exact hI.snaps
  | resize | clear | fillsil | sethint =>
    obtain ⟨hP, hC⟩ := hquiet rfl
    exact ⟨fun _ hb => absurd (hP.symm.trans hb) (by decide), fun _ hb => absurd (hC.symm.trans hb) (by decide)⟩
  | winrd | push | push24 | push16to32 | pushdsd | grantWrite | refuseWrite | winwr | commitw | pop | grantRead
  | refuseRead | advancer => simp [mayIssue] at hport

/-! ### The whole invariant after a command that completes -/

/-- While no fault is recorded, a command that completes leaves the record empty. -/
theorem SameSurroundings.faultInv_finish {s u : State} (hsame : SameSurroundings s u) (h : FaultInv s)
    (hf : s.fault = false) (v : Word) (ok : Bool) : FaultInv (finish v ok u) := by
  obtain ⟨hcode, hport, hdesc⟩ := h.1 hf
  have hfu : u.fault = false := hsame.fault.trans hf
  exact ⟨fun _ => ⟨hsame.fcode.trans hcode, hsame.fport.trans hport, hsame.fdesc.trans hdesc⟩,
    fun h => absurd (hfu.symm.trans h) (by decide)⟩

section Completion

variable {i : Instr} {s u : State} (hI : Inv s) (hf : s.fault = false) (hg : genericFault i s = none)
  (hu : BodyEffect s i u)

include hI hf hg hu

theorem inv_finish_P (hactive : s.active = .P) (hbusy : s.busyP = true) (v : Word) (ok : Bool) :
    Inv (finish v ok u) := by
  have hsame := hu.surroundings
  obtain ⟨hs, hw, hr⟩ := configured_of_genericFault hI hg (by simp [hactive])
  obtain ⟨hcfg, hcap, hrd, hrgb, hrgl, n, hn, hwr⟩ := hu.producerMove hI hg hactive hbusy
  have hmoved : availBytes s.cap u.wr s.rd = availBytes s.cap s.wr s.rd + n := by
    rw [hwr, availBytes_advance_wr hw hr hn]
  have hgrow : availBytes s.cap s.wr s.rd ≤ availBytes s.cap u.wr s.rd := by omega
  have hring : RingInv u := hI.ring.of_cursors_lt hs hsame.config hcfg hcap
    (by rw [hwr]; exact advance_lt _ _ _ (by omega)) (by rwa [hrd])
  have hread : u.rgl ≠ 0#32 → u.rgb = u.rd ∧ u.rgl.toNat ≤ contigAvail u.cap u.wr u.rd := by
    rw [hrgl, hrgb, hrd, hcap]
    intro hne
    obtain ⟨hbase, hlen⟩ := hI.grants.2 hne
    exact ⟨hbase, hlen.trans (contigAvail_mono hgrow)⟩
  have hsnap : SnapInv (finish v ok u) := by
    refine ⟨fun _ hb => ?_, fun _ hb => ?_⟩
    · simp [hsame.active, hactive] at hb
    · simp only [finish_busyC, hsame.active, hactive, hsame.busyC] at hb
      obtain ⟨hlt, hseen⟩ := hI.snaps.2 hs (by simpa using hb)
      simp only [finish_snapC, finish_cap, finish_rd, finish_wr, hsame.snapC, hcap, hrd]
      exact ⟨hlt, hseen.trans hgrow⟩
  exact ⟨hring, hu.storesInv hI hg, hu.alignInv hI.align, ⟨hu.writeGrant hI hg hactive hbusy, hread⟩, hsnap,
    hsame.faultInv_finish hI.record hf v ok⟩

theorem inv_finish_C (hactive : s.active = .C) (hbusy : s.busyC = true) (v : Word) (ok : Bool) :
    Inv (finish v ok u) := by
  have hsame := hu.surroundings
  obtain ⟨hs, hw, hr⟩ := configured_of_genericFault hI hg (by simp [hactive])
  obtain ⟨hcfg, hcap, hwr, hwgb, hwgl, n, hn, hrd⟩ := hu.consumerMove hI hg hactive hbusy
  have hgrow : freeBytes s.cap s.wr s.rd ≤ freeBytes s.cap s.wr u.rd := by
    rw [hrd, freeBytes_advance_rd hw hr hn]
    omega
  have hring : RingInv u := hI.ring.of_cursors_lt hs hsame.config hcfg hcap (by rwa [hwr])
    (by rw [hrd]; exact advance_lt _ _ _ (by omega))
  have hwrite : u.wgl ≠ 0#32 → u.wgb = u.wr ∧ u.wgl.toNat ≤ contigFree u.cap u.wr u.rd := by
    rw [hwgl, hwgb, hwr, hcap]
    intro hne
    obtain ⟨hbase, hlen⟩ := hI.grants.1 hne
    exact ⟨hbase, hlen.trans (contigFree_mono hgrow)⟩
  have hsnap : SnapInv (finish v ok u) := by
    refine ⟨fun _ hb => ?_, fun _ hb => ?_⟩
    · simp only [finish_busyP, hsame.active, hactive, hsame.busyP] at hb
      obtain ⟨hlt, hpast⟩ := hI.snaps.1 hs (by simpa using hb)
      simp only [finish_snapP, finish_cap, finish_rd, finish_wr, hsame.snapP, hcap, hwr, hrd]
      exact ⟨hlt, availBytes_advance_snap_le hw hr hlt hpast hn⟩
    · simp [hsame.active, hactive] at hb
  exact ⟨hring, hu.storesInv hI hg, hu.alignInv hI.align, ⟨hwrite, hu.readGrant hI hg hactive hbusy⟩, hsnap,
    hsame.faultInv_finish hI.record hf v ok⟩

theorem inv_finish_K (hactive : s.active = .K) (v : Word) (ok : Bool) : Inv (finish v ok u) := by
  have hsame := hu.surroundings
  obtain ⟨hring, hgrants⟩ := hu.ring_grants_K hI hg hactive
  have hsnap : SnapInv (finish v ok u) := by
    have h := hu.snapInv_K hI hg hactive
    simpa [SnapInv, hsame.active, hactive] using h
  exact ⟨hring, hu.storesInv hI hg, hu.alignInv hI.align, hgrants, hsnap, hsame.faultInv_finish hI.record hf v ok⟩

end Completion

/-! ### The invariant after each kind of step -/

theorem inv_resetWith (c : Config) : Inv (State.resetWith c) where
  ring := ⟨rfl, rfl, rfl, rfl, rfl⟩
  stores := resetWith_stores_wf c
  align := ⟨nofun, fun _ => .inl rfl, fun _ => Nat.zero_le _, Nat.zero_le _⟩
  grants := ⟨absurd rfl, absurd rfl⟩
  snaps := ⟨nofun, nofun⟩
  record := ⟨fun _ => ⟨rfl, rfl, rfl⟩, nofun⟩

/-- A reset leaves host memory alone and all else as after power-up (70_reset_and_hazards.md R270). -/
theorem inv_resetBlock {s : State} (h : Memory.wf hostFill hostSize s.hmem = true) : Inv (resetBlock s) := by
  obtain ⟨hring, ⟨-, hstore, hscratch⟩, halign, hgrants, hsnaps, hrecord⟩ := inv_resetWith s.config
  exact ⟨hring, ⟨h, hstore, hscratch⟩, halign, hgrants, hsnaps, hrecord⟩

/-- A host agent's store changes host memory alone, inside its address space. -/
theorem inv_hostStore {s : State} (hI : Inv s) (a : Addr) (b : Byte) (ts : List Turn) :
    Inv { s with turns := ts, hmem := Memory.write hostFill a.toNat b s.hmem } := by
  obtain ⟨hring, ⟨hhost, hstore, hscratch⟩, halign, hgrants, hsnaps, hrecord⟩ := hI
  exact ⟨hring, ⟨Memory.write_wf _ _ _ _ _ hhost a.isLt, hstore, hscratch⟩, halign, hgrants, hsnaps, hrecord⟩

theorem faultCode_bounds (c : FaultCode) : 1 ≤ (faultCode c).toNat ∧ (faultCode c).toNat ≤ 0x0A := by
  cases c <;> decide

/-- A fault names the port's pending descriptor, which on P and C is the one that stays in flight there
(60_exceptions.md R231). -/
theorem inv_raiseFault {s : State} (hI : Inv s) (c : FaultCode) {d : Desc}
    (hP : s.active = .P → s.busyP = true ∧ d = s.latchP) (hC : s.active = .C → s.busyC = true ∧ d = s.latchC) :
    Inv (raiseFault c d s) := by
  obtain ⟨hring, hstores, halign, hgrants, hsnaps, -⟩ := hI
  obtain ⟨hlo, hhi⟩ := faultCode_bounds c
  have hport : (portCode s.active).toNat ≤ 2 ∧ (portCode s.active = 0#2 → s.active = .P) ∧
      (portCode s.active = 1#2 → s.active = .C) := by
    cases s.active <;> decide
  exact ⟨hring, hstores, halign, hgrants, hsnaps,
    nofun, fun _ => ⟨hlo, hhi, hport.1, fun h => hP (hport.2.1 h), fun h => hC (hport.2.2 h)⟩⟩

/-- ISSUE on P takes `RD` as it is, at distance zero (10_state.md R42). -/
theorem inv_issueP {s : State} (hI : Inv s) (hf : s.fault = false) (d : Desc) : Inv (issueP d s) := by
  obtain ⟨hring, hstores, halign, hgrants, ⟨-, hsnapC⟩, hrecord, -⟩ := hI
  refine ⟨hring, hstores, halign, hgrants, ⟨fun hc _ => ⟨(hring.cursors_lt hc).2, ?_⟩, hsnapC⟩, hrecord,
    fun h => absurd (hf.symm.trans h) (by decide)⟩
  exact (availBytes_self s.cap s.rd).trans_le (Nat.zero_le _)

/-- ISSUE on C takes `WR` as it is (10_state.md R42). -/
theorem inv_issueC {s : State} (hI : Inv s) (hf : s.fault = false) (d : Desc) : Inv (issueC d s) := by
  obtain ⟨hring, hstores, halign, hgrants, ⟨hsnapP, -⟩, hrecord, -⟩ := hI
  exact ⟨hring, hstores, halign, hgrants, ⟨hsnapP, fun hc _ => ⟨(hring.cursors_lt hc).1, Nat.le_refl _⟩⟩, hrecord,
    fun h => absurd (hf.symm.trans h) (by decide)⟩

/-- The invariant does not depend on the schedule, the offers or the active port. -/
theorem Inv.with_agents {s : State} (h : Inv s) (ts : List Turn) (p : Port) (oP oC oK : List Desc) :
    Inv { s with turns := ts, active := p, offersP := oP, offersC := oC, offersK := oK } := by
  obtain ⟨hring, hstores, halign, hgrants, hsnaps, hrecord⟩ := h
  exact ⟨hring, hstores, halign, hgrants, hsnaps, hrecord⟩

/-- Settles O3: one case per outcome of a step, a completed command by its port. -/
theorem stepKeepsInvariant : Obligations.StepKeepsInvariant := by
  intro s t hI h
  cases step_effect h with
  | idle => exact hI
  | reset => exact inv_resetBlock hI.stores.1
  | hostStore => exact inv_hostStore hI _ _ _
  | @fault p ts d c _ _ hd =>
    refine inv_raiseFault (hI.atTurn p ts) c (fun hp => ?_) fun hp => ?_
    · obtain rfl : p = .P := by simpa using hp
      exact ⟨hd.1, hd.2.symm⟩
    · obtain rfl : p = .C := by simpa using hp
      exact ⟨hd.1, hd.2.symm⟩
  | @command p ts d i u v ok _ hf hd _ hg hu =>
    cases p with
    | P => exact inv_finish_P (hI.atTurn .P ts) hf hg hu rfl hd.1 v ok
    | C => exact inv_finish_C (hI.atTurn .C ts) hf hg hu rfl hd.1 v ok
    | K => exact inv_finish_K (hI.atTurn .K ts) hf hg hu rfl v ok
  | issueP _ hf => exact inv_issueP (hI.with_agents _ _ _ _ _) (by exact hf) _
  | issueC _ hf => exact inv_issueC (hI.with_agents _ _ _ _ _) (by exact hf) _
  | wait => exact hI.with_agents _ _ _ _ _

/-- Settles O2, part by part: nothing is stored, granted, in flight or recorded. -/
theorem resetStateMeetsInvariant : Obligations.ResetStateMeetsInvariant := inv_resetWith

end Sys2Proof.Machine

/-! The statements about single elements of the state: who writes them, and what a step leaves alone. -/

namespace Sys2Proof.Machine

/-! ### Turns that run, issue, or do nothing -/

/-- Settles O8: the pending descriptor runs, and it decodes. -/
theorem stepRunsDecodedInstruction : Obligations.StepRunsDecodedInstruction := by
  intro s p d i ts hf hs hd hdec
  rw [step_port_pending hf hs hd, runDescriptor_of_decode hdec]

/-- Settles O19, on each port by running the turn. -/
theorem issueLatchesOtherCursor : Obligations.IssueLatchesOtherCursor := by
  refine ⟨fun s d ds ts hf hs hbusy ho => ?_, fun s d ds ts hf hs hbusy ho => ?_⟩
  · simp [step, hs, takeTurn, stepPort, hf, stepP, hbusy, ho, issueP]
  · simp [step, hs, takeTurn, stepPort, hf, stepC, hbusy, ho, issueC]

/-- Settles O21, on each port by running the turn. -/
theorem nothingOfferedNothingDone : Obligations.NothingOfferedNothingDone := by
  intro s hf
  refine ⟨fun hs => by simp [step, hs, stepIdle, hf], fun p ts hs hP hC hK => ?_⟩
  cases p with
  | P => simp [step, hs, takeTurn, stepPort, hf, stepP, hP rfl]
  | C => simp [step, hs, takeTurn, stepPort, hf, stepC, hC rfl]
  | K => simp [step, hs, takeTurn, stepPort, hf, stepK, hK rfl]

/-- Settles O18: of the outcomes of a step, only those of a host store and a reset are left to a faulted block. -/
theorem haltedUntilReset : Obligations.HaltedUntilReset := by
  intro s hf
  refine ⟨fun p ts hs => step_port_halted hf hs, fun hs => by simp [step, hs, stepIdle, hf], fun t h => ?_⟩
  cases step_effect h with
  | idle | hostStore => exact .inr ⟨hf, rfl, rfl, rfl⟩
  | reset hs => exact .inl ⟨_, hs⟩
  | fault _ _ hf' | command _ _ _ hf' | issueP _ hf' | issueC _ hf' | wait _ hf' => simp [hf] at hf'

/-- A pending command of an unfaulted block faults and stays in flight, or ends on its own port. -/
theorem step_port_completes {s : State} {p : Port} {d : Desc} {ts : List Turn} (hf : s.fault = false)
    (hs : s.turns = .port p :: ts) (hd : pending p d s) :
    ∃ t, step s = .next t ∧ t.turns = ts ∧
      (t.fault = true ∧ t.busyP = s.busyP ∧ t.busyC = s.busyC ∨
        t.fault = false ∧ t.busyP = (if p = .P then false else s.busyP) ∧
          t.busyC = (if p = .C then false else s.busyC)) := by
  obtain ⟨t, ht⟩ := runDescriptor_next d (atTurn p ts s)
  refine ⟨t, (step_port_pending hf hs hd).trans ht, ?_⟩
  obtain ⟨c, rfl⟩ | ⟨i, v, ok, u, -, -, hu, rfl⟩ := runDescriptor_effect ht
  · simp
  · have hsame := hu.surroundings
    simp [hsame.turns, hsame.fault, hsame.active, hsame.busyP, hsame.busyC, hf]

/-- Settles O20: P's and C's turns complete the descriptor latched there. -/
theorem completeAlwaysEnabled : Obligations.CompleteAlwaysEnabled := by
  refine ⟨fun s ts hf hs hbusy => ?_, fun s ts hf hs hbusy => ?_⟩
  · obtain ⟨t, ht, hts, h⟩ := step_port_completes (d := s.latchP) hf hs ⟨hbusy, rfl⟩
    refine ⟨t, ht, ?_⟩
    obtain ⟨hft, hP, hC⟩ | ⟨hft, hP, hC⟩ := h <;> simp [hft, hP, hC, hts, hbusy]
  · obtain ⟨t, ht, hts, h⟩ := step_port_completes (d := s.latchC) hf hs ⟨hbusy, rfl⟩
    refine ⟨t, ht, ?_⟩
    obtain ⟨hft, hP, hC⟩ | ⟨hft, hP, hC⟩ := h <;> simp [hft, hP, hC, hts, hbusy]

/-- Settles O22, by what a host agent's store can do. -/
theorem hostStoresOutsideBuffersInFlight : Obligations.HostStoresOutsideBuffersInFlight := by
  rintro s a b ts hs ⟨hhost, -⟩
  have hstep : step s = storeHost a b { s with turns := ts } := by simp [step, hs, takeTurn]
  obtain ⟨hf, hin, hrefused⟩ | ⟨hout, hnext⟩ := storeHost_cases a b { s with turns := ts }
  · refine ⟨fun h => ?_, fun _ _ => hstep.trans hrefused⟩
    exact h.elim (fun h => absurd (hf.symm.trans h) (by decide)) (fun h => absurd hin h)
  · refine ⟨fun _ => ⟨_, hstep.trans hnext, rfl, fun x => ?_⟩, fun hf hin => ?_⟩
    · exact Memory.read_write hostFill hostSize a.toNat x b s.hmem hhost
    · exact absurd hin (hout.resolve_left (by simp [hf]))

/-! ### Who writes the configuration and the cursors -/

/-- Settles O23: both cursors lie below the capacity. -/
theorem freePlusAvailIsCapacityMinusOne : Obligations.FreePlusAvailIsCapacityMinusOne := by
  intro s h hc
  obtain ⟨hw, hr⟩ := h.cursors_lt hc
  exact freeBytes_add_availBytes hw hr

/-- Only RESIZE writes `CFG`, and sets it. -/
theorem BodyEffect.cfg {i : Instr} {s u : State} (hu : BodyEffect s i u) :
    u.cfg = s.cfg ∨ u.cfg = true ∧ ∃ len b, i = .resize len b := by
  cases hu with
  | resize len b => exact .inr ⟨rfl, len, b, rfl⟩
  | push24 => exact .inl (by simp [pushStaged])
  | _ => exact .inl rfl

/-- A step changes `CFG` only by a reset, which clears it, and by a RESIZE on K, which sets it. -/
theorem StepEffect.cfg {s t : State} (h : StepEffect s t) :
    t.cfg = s.cfg ∨ t.cfg = false ∧ (∃ ts, s.turns = .reset :: ts) ∨
      t.cfg = true ∧ ∃ ts d len b, s.turns = .port .K :: ts ∧ s.offersK.head? = some d ∧
        decode d = .ok (.resize len b) := by
  cases h with
  | idle | hostStore | issueP | issueC | wait => exact .inl rfl
  | reset hs => exact .inr (.inl ⟨rfl, _, hs⟩)
  | fault => exact .inl (by simp)
  | command _ _ hs _ hd hdec hg hu =>
    obtain hkept | ⟨hset, len, b, rfl⟩ := hu.cfg
    · exact .inl (by simp [hkept])
    · obtain ⟨-, hport, -⟩ := (genericFault_eq_none _ _).1 hg
      have hK := of_decide_eq_true hport
      rw [atTurn_active] at hK
      subst hK
      exact .inr (.inr ⟨hset, _, _, len, b, hs, hd, hdec⟩)

/-- Settles O13: the generic check gives the fault, the outcomes of a step say who writes `CFG`. -/
theorem configuredFlagLife : Obligations.ConfiguredFlagLife := by
  refine ⟨fun i s hwf hport hcfg h1 h4 => ?_, fun s t h hs ht => ?_, fun s t h hs ht => ?_, fun len b s t _ h ht => ?_⟩
  · have hfault := genericFault_eq_notConfigured hwf ((mayIssue_iff _ _).2 hport) ((needsConfig_iff i).2 ⟨h1, h4⟩) hcfg
    rw [exec_eq_runCommand, runCommand_generic _ _ _ _ hfault, raiseFault_eq_withRecord]
    rfl
  · obtain hkept | ⟨-, hreset⟩ | ⟨hset, -⟩ := (step_effect h).cfg
    · simp [hkept, hs] at ht
    · exact hreset
    · simp [hset] at ht
  · obtain hkept | ⟨hclear, -⟩ | ⟨-, hresize⟩ := (step_effect h).cfg
    · simp [hkept, hs] at ht
    · simp [hclear] at ht
    · exact hresize
  · obtain ⟨c, rfl⟩ | ⟨v, ok, u, -, hu, rfl⟩ := exec_effect h
    · simp at ht
    · cases hu
      rfl

/-- Of the K commands only CLEAR and RESIZE write the cursors. -/
theorem BodyEffect.cursors_K {i : Instr} {s u : State} (hu : BodyEffect s i u) (hg : genericFault i s = none)
    (hactive : s.active = .K) :
    u.wr = s.wr ∧ u.rd = s.rd ∨ i = .clear ∨ ∃ len b, i = .resize len b := by
  obtain ⟨-, hport, -⟩ := (genericFault_eq_none i s).1 hg
  rw [hactive] at hport
  cases hu with
  | avail | free | fillsil | sethint => exact .inl ⟨rfl, rfl⟩
  | clear => exact .inr (.inl rfl)
  | resize len b => exact .inr (.inr ⟨len, b, rfl⟩)
  | winrd | push | push24 | push16to32 | pushdsd | grantWrite | refuseWrite | winwr | commitw | pop | grantRead
  | refuseRead | advancer => simp [mayIssue] at hport

/-- What a step can do to the cursors: a P command moves `WR`, a C command moves `RD`, CLEAR, RESIZE and reset write
both. -/
theorem StepEffect.cursors {s t : State} (h : StepEffect s t) (hI : Inv s) :
    t.wr = s.wr ∧ t.rd = s.rd ∨ (∃ ts, s.turns = .reset :: ts) ∨
      (∃ ts n, s.turns = .port .P :: ts ∧ n ≤ freeBytes s.cap s.wr s.rd ∧
        t.wr.toNat = (s.wr.toNat + n) % s.cap.toNat ∧ t.rd = s.rd) ∨
      (∃ ts n, s.turns = .port .C :: ts ∧ n ≤ availBytes s.cap s.wr s.rd ∧
        t.rd.toNat = (s.rd.toNat + n) % s.cap.toNat ∧ t.wr = s.wr) ∨
      ∃ ts d i, s.turns = .port .K :: ts ∧ s.offersK.head? = some d ∧ decode d = .ok i ∧
        (i = .clear ∨ ∃ len b, i = .resize len b) := by
  cases h with
  | idle | hostStore | issueP | issueC | wait => exact .inl ⟨rfl, rfl⟩
  | reset hs => exact .inr (.inl ⟨_, hs⟩)
  | fault => exact .inl (by simp)
  | @command p ts d i u v ok hs hf hd hdec hg hu =>
    have hI' := hI.atTurn p ts
    cases p with
    | P =>
      obtain ⟨-, hw, -⟩ := configured_of_genericFault hI' hg nofun
      obtain ⟨-, -, hrd, -, -, n, hn, hwr⟩ := hu.producerMove hI' hg rfl hd.1
      refine .inr (.inr (.inl ⟨ts, n, hs, hn, ?_, hrd⟩))
      rw [finish_wr, hwr]
      exact advance_toNat _ _ _ (Nat.zero_lt_of_lt hw)
    | C =>
      obtain ⟨-, hw, -⟩ := configured_of_genericFault hI' hg nofun
      obtain ⟨-, -, hwr, -, -, n, hn, hrd⟩ := hu.consumerMove hI' hg rfl hd.1
      refine .inr (.inr (.inr (.inl ⟨ts, n, hs, hn, ?_, hwr⟩)))
      rw [finish_rd, hrd]
      exact advance_toNat _ _ _ (Nat.zero_lt_of_lt hw)
    | K =>
      obtain hkept | hi := hu.cursors_K hg rfl
      · exact .inl hkept
      · exact .inr (.inr (.inr (.inr ⟨ts, d, i, hs, hd, hdec, hi⟩)))

/-- Settles O24, by what a step can do to the cursors. -/
theorem writeCursorMovesForward : Obligations.WriteCursorMovesForward := by
  intro s t hI h hne
  obtain ⟨hkept, -⟩ | hreset | ⟨ts, n, hs, hn, ht, -⟩ | ⟨-, -, -, -, -, hkept⟩ | hK := (step_effect h).cursors hI
  · exact absurd hkept hne
  · exact .inl hreset
  · exact .inr (.inl ⟨ts, n, hs, hn, ht⟩)
  · exact absurd hkept hne
  · exact .inr (.inr hK)

/-- Settles O25, by what a step can do to the cursors. -/
theorem readCursorMovesForward : Obligations.ReadCursorMovesForward := by
  intro s t hI h hne
  obtain ⟨-, hkept⟩ | hreset | ⟨-, -, -, -, -, hkept⟩ | ⟨ts, n, hs, hn, ht, -⟩ | hK := (step_effect h).cursors hI
  · exact absurd hkept hne
  · exact .inl hreset
  · exact absurd hkept hne
  · exact .inr (.inl ⟨ts, n, hs, hn, ht⟩)
  · exact .inr (.inr hK)

/-! ### Who writes the alignment state and host memory -/

/-- A confirmed mode ends detection (43_format_push.md R194). -/
theorem detectIfNeeded_of_conf {s : State} (h : s.conf = true) (a k : Nat) : detectIfNeeded a k s = s := by
  simp [detectIfNeeded, h]

/-- Only CLEAR, SETHINT and PUSH24 write the alignment state, PUSH24 neither the hint nor a confirmed mode. -/
theorem BodyEffect.alignment {i : Instr} {s u : State} (hu : BodyEffect s i u) :
    u.mode = s.mode ∧ u.conf = s.conf ∧ u.defcnt = s.defcnt ∧ u.hint = s.hint ∨
      (opcodeOf i).toNat = 0x11 ∧ u.hint = s.hint ∧ (s.conf = true → u.mode = s.mode ∧ u.conf = true) ∨
      (opcodeOf i).toNat ∈ [0x02, 0x04] := by
  cases hu with
  | clear | sethint => exact .inr (.inr (by simp [opcodeOf]))
  | push24 =>
    refine .inr (.inl ⟨rfl, by simp [pushStaged], fun hc => ?_⟩)
    rw [detectIfNeeded_of_conf hc]
    exact ⟨rfl, hc⟩
  | _ => exact .inl ⟨rfl, rfl, rfl, rfl⟩

/-- Settles O53, by what a body can do to the alignment state. -/
theorem alignmentStateOwners : Obligations.AlignmentStateOwners := by
  intro i s t h
  obtain ⟨c, rfl⟩ | ⟨v, ok, u, -, hu, rfl⟩ := exec_effect h
  · exact ⟨fun _ => ⟨rfl, rfl, rfl⟩, fun _ => rfl, fun hc _ => ⟨rfl, hc⟩⟩
  · obtain ⟨hmode, hconf, hcnt, hhint⟩ | ⟨hop, hhint, hkeep⟩ | hop := hu.alignment
    · exact ⟨fun _ => ⟨hmode, hconf, hcnt⟩, fun _ => hhint, fun hc _ => ⟨hmode, hconf.trans hc⟩⟩
    · exact ⟨fun hi => absurd hop (by simp_all), fun _ => hhint, fun hc _ => hkeep hc⟩
    · exact ⟨fun hi => absurd hop (by simp_all), fun hi => absurd hop hi, fun _ hi => absurd hop hi⟩

/-- Only POP writes host memory, and as many bytes as fit its buffer. -/
theorem BodyEffect.hmem {i : Instr} {s u : State} (hu : BodyEffect s i u) :
    u.hmem = s.hmem ∨ ∃ addr len v, i = .pop addr len ∧ v.length ≤ len.toNat ∧
      hostRangeOK s.config addr.toNat v.length = true ∧ u.hmem = (memWrite addr.toNat v s).hmem := by
  cases hu with
  | @pop addr len v n hv hlen _ hok =>
    subst hv
    exact .inr ⟨addr, len, v, rfl, hlen, hok, rfl⟩
  | push24 => exact .inl (by simp [pushStaged])
  | _ => exact .inl rfl

/-- Settles O54: POP's bytes lie in the buffer it was given. -/
theorem onlyPopWritesHostMemory : Obligations.OnlyPopWritesHostMemory := by
  rintro i s t ⟨hwf, -⟩ h hne
  obtain ⟨c, rfl⟩ | ⟨v, ok, u, -, hu, rfl⟩ := exec_effect h
  · exact absurd rfl hne
  · obtain hkept | ⟨addr, len, v, rfl, hlen, hok, hmem⟩ := hu.hmem
    · exact absurd hkept hne
    · refine ⟨addr, len, rfl, fun a ha => ?_⟩
      have hbyte := hostByte_memWrite s addr.toNat a v hwf (addr_add_le_hostSize hok)
      rw [if_neg (by omega)] at hbyte
      rw [← hbyte, hostByte, hostByte, finish_hmem, hmem]

/-! ### What a command leaves of the ports and the agents -/

/-- The state with the result registers of `x`. -/
def withResultsOf (x s : State) : State :=
  { s with
    rvalP := x.rvalP, rokP := x.rokP, rvalC := x.rvalC, rokC := x.rokC, rvalK := x.rvalK, rokK := x.rokK }

/-- Classification reads no result register. -/
theorem detectIfNeeded_withResultsOf (a k : Nat) (x s : State) :
    detectIfNeeded a k (withResultsOf x s) = withResultsOf x (detectIfNeeded a k s) := by
  have hdefer : deferUnits k (withResultsOf x s) = withResultsOf x (deferUnits k s) := by
    have hcount : (withResultsOf x s).defcnt = s.defcnt := rfl
    have hconfig : (withResultsOf x s).config = s.config := rfl
    simp only [deferUnits, hcount, hconfig]
    split <;> rfl
  have hzero : ∀ w b, byteAlwaysZero (withResultsOf x s) a w b = byteAlwaysZero s a w b := fun _ _ => rfl
  have hdetect : detect a k (withResultsOf x s) = withResultsOf x (detect a k s) := by
    simp only [detect, hzero]
    split
    · exact hdefer
    · rfl
    · rfl
    · rfl
  unfold detectIfNeeded
  rw [hdetect]
  exact (apply_ite (withResultsOf x) _ _ _).symm

/-- The reply with the result registers of `x` in its state. -/
def Reply.withResultsOf (x : State) (r : Reply) : Reply := { r with state := Machine.withResultsOf x r.state }

/-- No body reads a result register: each check it makes is of other fields, and its effects commute with theirs. -/
theorem commandBody_withResultsOf (i : Instr) (x s : State) :
    commandBody i (withResultsOf x s) = (commandBody i s).map (Reply.withResultsOf x) := by
  have hmap {P : Prop} [Decidable P] := apply_ite (P := P) (Except.map (ε := FaultCode) (Reply.withResultsOf x))
  cases i with
  | avail | free | clear | fillsil | sethint => rfl
  | resize => simp only [commandBody, resizeBody, hmap]; rfl
  | push => simp only [commandBody, pushBody, hmap]; rfl
  | push24 => simp only [commandBody, push24Body, detectIfNeeded_withResultsOf, hmap]; rfl
  | push16to32 => simp only [commandBody, push16to32Body, hmap]; rfl
  | pushdsd => simp only [commandBody, pushdsdBody, hmap]; rfl
  | wregion => simp only [commandBody, wregionBody, hmap]; rfl
  | winwr => simp only [commandBody, winwrBody, hmap]; rfl
  | commitw => simp only [commandBody, commitwBody, hmap]; rfl
  | pop => simp only [commandBody, popBody, hmap]; rfl
  | rregion => simp only [commandBody, rregionBody, hmap]; rfl
  | winrd => simp only [commandBody, winrdBody, hmap]; rfl
  | advancer => simp only [commandBody, advancerBody, hmap]; rfl

/-- `finish` writes the results of the active port, whatever they were. -/
theorem finish_withResultsOf {x u : State} (hP : u.active ≠ .P → x.rvalP = u.rvalP ∧ x.rokP = u.rokP)
    (hC : u.active ≠ .C → x.rvalC = u.rvalC ∧ x.rokC = u.rokC)
    (hK : u.active ≠ .K → x.rvalK = u.rvalK ∧ x.rokK = u.rokK) (v : Word) (ok : Bool) :
    finish v ok (withResultsOf x u) = finish v ok u := by
  cases ha : u.active <;> simp_all [finish, withResultsOf]

/-- A command that completes does not depend on the results its port held. -/
theorem exec_withResultsOf {i : Instr} {s t x : State} (hP : s.active ≠ .P → x.rvalP = s.rvalP ∧ x.rokP = s.rokP)
    (hC : s.active ≠ .C → x.rvalC = s.rvalC ∧ x.rokC = s.rokC)
    (hK : s.active ≠ .K → x.rvalK = s.rvalK ∧ x.rokK = s.rokK)
    (h : exec i s = .next t) (hft : t.fault = false) : exec i (withResultsOf x s) = .next t := by
  obtain ⟨c, rfl⟩ | ⟨r, hg, hb, rfl⟩ := exec_cases h
  · simp at hft
  · have hsame := (commandBody_effect hb).surroundings
    have hgx : genericFault i (withResultsOf x s) = none := hg
    have hbx : commandBody i (withResultsOf x s) = .ok (r.withResultsOf x) := by
      rw [commandBody_withResultsOf, hb]
      rfl
    rw [exec_eq_runCommand, runCommand_ok _ _ _ _ hgx hbx]
    refine congrArg _ (finish_withResultsOf ?_ ?_ ?_ r.val r.ok)
    · rwa [hsame.active, hsame.rvalP, hsame.rokP]
    · rwa [hsame.active, hsame.rvalC, hsame.rokC]
    · rwa [hsame.active, hsame.rvalK, hsame.rokK]

/-- Settles O55: results and busy flags are written by `finish` alone, and no body reads a result. -/
theorem commandsWriteOwnPortOnly : Obligations.CommandsWriteOwnPortOnly := by
  intro i s t h
  obtain ⟨c, rfl⟩ | ⟨v, ok, u, -, hu, rfl⟩ := exec_effect h
  · simp
  · have hsame := hu.surroundings
    have hother := fun x hP hC hK => exec_withResultsOf (x := x) hP hC hK h
    refine ⟨fun hp => ?_, fun hp => ?_, fun hp => ?_, hsame.latchP, hsame.latchC, hsame.snapP, hsame.snapC,
      fun _ hft => ⟨fun hp => ⟨?_, fun v' ok' => ?_⟩, fun hp => ⟨?_, fun v' ok' => ?_⟩, fun hp v' ok' => ?_⟩,
      fun hf ht => ?_⟩
    · simp [hsame.active, hp, hsame.rvalP, hsame.rokP, hsame.busyP]
    · simp [hsame.active, hp, hsame.rvalC, hsame.rokC, hsame.busyC]
    · simp [hsame.active, hp, hsame.rvalK, hsame.rokK]
    · simp [hsame.active, hp]
    · exact hother { s with rvalP := v', rokP := ok' } (absurd hp) (fun _ => ⟨rfl, rfl⟩) (fun _ => ⟨rfl, rfl⟩) hft
    · simp [hsame.active, hp]
    · exact hother { s with rvalC := v', rokC := ok' } (fun _ => ⟨rfl, rfl⟩) (absurd hp) (fun _ => ⟨rfl, rfl⟩) hft
    · exact hother { s with rvalK := v', rokK := ok' } (fun _ => ⟨rfl, rfl⟩) (fun _ => ⟨rfl, rfl⟩) (absurd hp) hft
    · rw [finish_fault, hsame.fault, hf] at ht
      cases ht

/-- Settles O56: agents and parameters belong to what no body touches. -/
theorem commandsLeaveAgentsAlone : Obligations.CommandsLeaveAgentsAlone := by
  refine ⟨fun i s t h => ?_, fun s t h => ?_⟩
  · obtain ⟨c, rfl⟩ | ⟨v, ok, u, -, hu, rfl⟩ := exec_effect h
    · simp
    · have hsame := hu.surroundings
      exact ⟨hsame.offersP, hsame.offersC, hsame.offersK, hsame.turns, hsame.active⟩
  · cases step_effect h with
    | idle | reset | hostStore | issueP | issueC | wait => rfl
    | fault => simp
    | command _ _ _ _ _ _ _ hu => simp [hu.surroundings.config]

end Sys2Proof.Machine

/-! The statements of 20_memory.md: what a snapshot promises (R72), which ring bytes the two ports reach (R73), and host
addresses that do not wrap (R63). -/

namespace Sys2Proof.Machine

/-! ### Snapshots of the other cursor -/

/-- The bytes from `p` to `w` are those from `p` to `r` and those from `r` to `w`, if `r` lies on the way. -/
theorem availBytes_split {cap w r p : Word} (hw : w.toNat < cap.toNat) (hr : r.toNat < cap.toNat)
    (hp : p.toNat < cap.toNat) (h : availBytes cap r p ≤ availBytes cap w p) :
    availBytes cap w p = availBytes cap r p + availBytes cap w r := by
  rw [availBytes_eq cap r p hr hp, availBytes_eq cap w p hw hp] at h ⊢
  rw [availBytes_eq cap w r hw hr]
  split_ifs at h ⊢ <;> omega

/-- What `RD` has moved on from `p` is what became free since (20_memory.md R72). -/
theorem freeBytes_eq_snap_add {cap w r p : Word} (hw : w.toNat < cap.toNat) (hr : r.toNat < cap.toNat)
    (hp : p.toNat < cap.toNat) (h : availBytes cap r p ≤ availBytes cap w p) :
    freeBytes cap w r = freeBytes cap w p + availBytes cap r p := by
  have hsplit := availBytes_split hw hr hp h
  have hlive := freeBytes_add_availBytes hw hr
  have hsnap := freeBytes_add_availBytes hw hp
  omega

/-- Settles O26: the snapshot lies between the two live cursors, so the bytes it shows and those the other cursor has
moved over since add up to the live count. -/
theorem stalenessBound : Obligations.StalenessBound := by
  intro s hI hc
  obtain ⟨hw, hr⟩ := hI.ring.cursors_lt hc
  refine ⟨fun hbusy => ?_, fun hbusy => ?_⟩
  · obtain ⟨hp, hpast⟩ := hI.snaps.1 hc hbusy
    exact ⟨freeBytes_eq_snap_add hw hr hp hpast, freeBytes_snap_le hw hr hp hpast⟩
  · obtain ⟨hq, hpast⟩ := hI.snaps.2 hc hbusy
    exact ⟨availBytes_split hw hq hr hpast, hpast⟩

/-- Settles O27: seen from `WR`, a byte that C may read lies beyond every free byte, and the snapshots promise no more
than the live counts. -/
theorem portsTouchDisjointBytes : Obligations.PortsTouchDisjointBytes := by
  intro s hI hc hbusyP hbusyC i j hi hj heq
  obtain ⟨hw, hr⟩ := hI.ring.cursors_lt hc
  obtain ⟨hP, hC⟩ := stalenessBound s hI hc
  obtain ⟨-, hfree⟩ := hP hbusyP
  obtain ⟨-, havail⟩ := hC hbusyC
  have hcap := freeBytes_lt s.cap s.wr s.rd (by omega)
  have hwrite := ringDist_ahead s.cap.toNat s.wr.toNat i hw (by omega)
  have hread := ringDist_available hw hr (hj.trans_le havail)
  rw [heq, hread] at hwrite
  omega

/-! ### What a command answers once the shared checks pass -/

/-- The shared checks pass for a command without a restricted operand on its own port of a configured block, unless it
needs quiescence. -/
theorem genericFault_eq_none_of_port {i : Instr} {s : State} (hwf : i.wellFormed = true)
    (hport : mayIssue s.active i = true) (hcfg : s.cfg = true) (hquiet : needsQuiescence i = false) :
    genericFault i s = none :=
  (genericFault_eq_none i s).2 ⟨hwf, hport, fun _ => hcfg, fun h => absurd h (by simp [hquiet])⟩

/-- A command that fails its own check leaves the fault record and nothing else (60_exceptions.md R231, R232). -/
theorem exec_of_error {i : Instr} {s : State} {c : FaultCode} (hg : genericFault i s = none)
    (hb : commandBody i s = .error c) : exec i s = .next (withRecord (faultCode c) (encode i) s) := by
  rw [exec_eq_runCommand, runCommand_error i _ s c hg hb, raiseFault_eq_withRecord]

/-- A command that passes its checks leaves its body's state with the result written. -/
theorem exec_of_ok {i : Instr} {s : State} {r : Reply} (hg : genericFault i s = none)
    (hb : commandBody i s = .ok r) : exec i s = .next (finish r.val r.ok r.state) := by
  rw [exec_eq_runCommand, runCommand_ok i _ s r hg hb]

/-! ### Raw transfers, by whether the clamped buffer is accessible -/

/-- No byte at all is always accessible (20_memory.md R63). -/
@[simp] theorem hostRangeOK_zero (c : Config) (a : Nat) : hostRangeOK c a 0 = true := rfl

/-- A range that starts in the host address space and passes its end is not accessible: addresses do not wrap
(20_memory.md R63). -/
theorem hostRangeOK_of_past_end (c : Config) (addr : Addr) {n : Nat} (h : 2 ^ 64 < addr.toNat + n) :
    hostRangeOK c addr.toNat n = false := by
  have haddr := addr.isLt
  refine eq_false_of_ne_true fun hok => ?_
  exact absurd (hostRangeOK_size c addr.toNat n hok (by omega)) (Nat.not_le_of_lt h)

section RawTransfers

variable {addr : Addr} {len : Word} {s : State} (hcfg : s.cfg = true)

include hcfg

/-- PUSH of a clamped buffer that is not accessible faults and moves nothing (42_raw_transfer.md R172). -/
theorem exec_push_of_inaccessible (hactive : s.active = .P)
    (h : hostRangeOK s.config addr.toNat (min len.toNat (freeBytes s.cap s.wr s.snapP)) = false) :
    exec (.push addr len) s = .next (withRecord 0x0A#8 (encode (.push addr len)) s) := by
  have hg : genericFault (.push addr len) s = none :=
    genericFault_eq_none_of_port rfl (by simp [mayIssue, hactive]) hcfg rfl
  exact exec_of_error hg (if_pos h)

/-- PUSH of a clamped buffer that is accessible: its bytes go into the ring and their number is the result
(42_raw_transfer.md R172). -/
theorem exec_push_of_accessible (hactive : s.active = .P) {n : Nat}
    (hn : min len.toNat (freeBytes s.cap s.wr s.snapP) = n) (h : hostRangeOK s.config addr.toNat n = true) :
    exec (.push addr len) s = .next (finish (BitVec.ofNat 32 n) true
      (setWriteGrant 0#32 0#32 (ringPut (memRead s addr.toNat n) s))) := by
  subst hn
  have hg : genericFault (.push addr len) s = none :=
    genericFault_eq_none_of_port rfl (by simp [mayIssue, hactive]) hcfg rfl
  exact exec_of_ok hg (if_neg (ne_false_of_eq_true h))

/-- POP into a clamped buffer that is not accessible faults and moves nothing (42_raw_transfer.md R173). -/
theorem exec_pop_of_inaccessible (hactive : s.active = .C)
    (h : hostRangeOK s.config addr.toNat (min len.toNat (availBytes s.cap s.snapC s.rd)) = false) :
    exec (.pop addr len) s = .next (withRecord 0x0A#8 (encode (.pop addr len)) s) := by
  have hg : genericFault (.pop addr len) s = none :=
    genericFault_eq_none_of_port rfl (by simp [mayIssue, hactive]) hcfg rfl
  exact exec_of_error hg (if_pos h)

/-- POP into a clamped buffer that is accessible: the oldest bytes go to host memory, `RD` moves over them and their
number is the result (42_raw_transfer.md R173). -/
theorem exec_pop_of_accessible (hactive : s.active = .C) {n : Nat}
    (hn : min len.toNat (availBytes s.cap s.snapC s.rd) = n) (h : hostRangeOK s.config addr.toNat n = true) :
    exec (.pop addr len) s = .next (finish (BitVec.ofNat 32 n) true
      (setReadGrant 0#32 0#32 (memWrite addr.toNat (ringBytes n s) (ringDrop n s)))) := by
  subst hn
  have hg : genericFault (.pop addr len) s = none :=
    genericFault_eq_none_of_port rfl (by simp [mayIssue, hactive]) hcfg rfl
  exact exec_of_ok hg (if_neg (ne_false_of_eq_true h))

end RawTransfers

/-- Settles O42: a range past the end of host memory is not accessible, and one of no bytes always is. -/
theorem hostAddressesDoNotWrap : Obligations.HostAddressesDoNotWrap := by
  intro addr len s hcfg
  refine ⟨fun hactive hpast => ?_, fun hactive hpast => ?_, fun hactive hf hn => ?_, fun hactive hf hn => ?_⟩
  · exact exec_push_of_inaccessible hcfg hactive (hostRangeOK_of_past_end s.config addr hpast)
  · exact exec_pop_of_inaccessible hcfg hactive (hostRangeOK_of_past_end s.config addr hpast)
  · exact ⟨_, exec_push_of_accessible hcfg hactive hn (hostRangeOK_zero ..), by simp [hf], by simp [hactive]⟩
  · exact ⟨_, exec_pop_of_accessible hcfg hactive hn (hostRangeOK_zero ..), by simp [hf], by simp [hactive]⟩

end Sys2Proof.Machine

/-! The statements of 30_encoding.md: encoding and decoding are inverse (R91 to R97), a descriptor is 16 little-endian
bytes (R100), and an illegal descriptor or a wrong port faults (R93 to R96). -/

namespace Sys2Proof

/-! ### What decoding checks -/

/-- The command that a descriptor decodes to, check by check (30_encoding.md R93, R94, R96). -/
theorem decode_eq_ok_iff {d : Desc} {i : Instr} :
    decode d = .ok i ↔
      decodeOpcode d = some i ∧ descRsv d = 0#14 ∧ unusedZero i d = true ∧ i.wellFormed = true := by
  constructor
  · intro h
    unfold decode at h
    split at h
    · cases h
    · rename_i j hj
      split_ifs at h with hrsv hzero hwf
      cases h
      exact ⟨hj, by simpa using hrsv, by simpa using hzero, by simpa using hwf⟩
  · rintro ⟨hi, hrsv, hzero, hwf⟩
    simp [decode, hi, hrsv, hzero, hwf]

/-! ### Decoding an encoded command -/

/-- The opcode of a command's descriptor names it, and its fields hold the command's operands. -/
@[simp] theorem decodeOpcode_encode (i : Instr) : decodeOpcode (encode i) = some i := by
  cases i <;> simp [decodeOpcode, encode, opcodeOf]

@[simp] theorem descRsv_encode (i : Instr) : descRsv (encode i) = 0#14 := by
  cases i <;> simp [encode]

/-- A command's descriptor holds nothing beside the command's operands (30_encoding.md R101). -/
@[simp] theorem unusedZero_encode (i : Instr) : unusedZero i (encode i) = true := by
  cases i <;> simp [unusedZero, usesImm, usesSwaps, usesLen, usesAddr, encode]

/-- Settles O4: the descriptor of a well-formed command passes every check of the decoder. -/
theorem decodeOfEncode : Obligations.DecodeOfEncode := fun i hwf =>
  decode_eq_ok_iff.2 ⟨decodeOpcode_encode i, descRsv_encode i, unusedZero_encode i, hwf⟩

/-- Settles O5: the decoder's checks leave no bit of the descriptor beside the command's operands. -/
theorem encodeOfDecode : Obligations.EncodeOfDecode := fun d i h => by
  obtain ⟨-, -, -, hwf⟩ := decode_eq_ok_iff.1 h
  exact ⟨encode_of_decode h, hwf⟩

/-- Settles O6: the model decodes each of the words. -/
theorem writtenWordsDecode : Obligations.WrittenWordsDecode := ⟨rfl, rfl, rfl, rfl, rfl, rfl, rfl, rfl⟩

/-! ### A descriptor as bytes -/

@[simp] theorem length_descBytes (d : Desc) : (descBytes d).length = 16 := by
  simp [descBytes]

theorem getElem?_descBytes (d : Desc) {j : Nat} (hj : j < 16) :
    (descBytes d)[j]? = some (d.extractLsb' (8 * j) 8) := by
  simp [descBytes, hj]

/-- Bytes put together with the first one least significant: bit `i` is bit `i % 8` of byte `i / 8`. -/
theorem getLsbD_foldr_bytes (bs : List Byte) {i : Nat} (hi : i < 128) :
    (bs.foldr (fun b (d : Desc) => (d <<< 8) ||| b.setWidth 128) 0#128).getLsbD i =
      (bs.getD (i / 8) 0#8).getLsbD (i % 8) := by
  induction bs generalizing i with
  | nil => simp
  | cons b bs ih =>
    rw [List.foldr_cons, BitVec.getLsbD_or, BitVec.getLsbD_shiftLeft, BitVec.getLsbD_setWidth]
    by_cases h : i < 8
    · simp [hi, h, Nat.div_eq_of_lt h, Nat.mod_eq_of_lt h]
    · have hdiv : i / 8 = (i - 8) / 8 + 1 := by omega
      have hmod : i % 8 = (i - 8) % 8 := by omega
      rw [ih (by omega), hdiv, List.getD_cons_succ, hmod]
      simp [hi, h, BitVec.getLsbD_of_ge b i (by omega)]

/-- The first 16 bytes spell the descriptor (30_encoding.md R99, R100). -/
@[simp] theorem descOfBytes_descBytes_append (d : Desc) (rest : List Byte) :
    descOfBytes (descBytes d ++ rest) = d := by
  refine BitVec.eq_of_getLsbD_eq fun i hi => ?_
  have hbyte : (descBytes d).getD (i / 8) 0#8 = d.extractLsb' (8 * (i / 8)) 8 := by
    rw [List.getD_eq_getElem?_getD, getElem?_descBytes d (by omega), Option.getD_some]
  rw [descOfBytes, List.take_left' (length_descBytes d), getLsbD_foldr_bytes _ hi, hbyte, BitVec.getLsbD_extractLsb',
    decide_eq_true (Nat.mod_lt i (by decide)), Bool.true_and, Nat.div_add_mod]

/-- Settles O7: the bytes spell the descriptor again, and are the first 16 of those given. -/
theorem descriptorBytesAreLittleEndian : Obligations.DescriptorBytesAreLittleEndian := by
  intro d rest
  refine ⟨length_descBytes d, fun j hj => getElem?_descBytes d hj, ?_⟩
  have hlen : ¬ (descBytes d ++ rest).length < 16 := by simp
  rw [decodeBytes, if_neg hlen, descOfBytes_descBytes_append, List.drop_left' (length_descBytes d)]
  cases decode d <;> rfl

end Sys2Proof

namespace Sys2Proof.Machine

/-! ### The decoder's checks in terms of opcodes -/

/-- An opcode names a command exactly if the table of 30_encoding.md R92 has it. -/
theorem exists_decodeOpcode_iff (d : Desc) :
    (∃ i, decodeOpcode d = some i) ↔ (descOpc d).toNat ∈ assignedOpcodes := by
  unfold decodeOpcode
  split <;> simp_all [assignedOpcodes]

/-- The column "uses" of 30_encoding.md R92, for `IMM8`. -/
theorem usesImm_iff (i : Instr) : usesImm i = true ↔ (opcodeOf i).toNat ∈ [0x01, 0x04, 0x13, 0x15] := by
  cases i <;> simp [usesImm, opcodeOf]

/-- The column "uses" of 30_encoding.md R92, for `BR` and `BS`. -/
theorem usesSwaps_iff (i : Instr) : usesSwaps i = true ↔ (opcodeOf i).toNat = 0x13 := by
  cases i <;> simp [usesSwaps, opcodeOf]

/-- The column "uses" of 30_encoding.md R92, for `LEN`. -/
theorem usesLen_iff (i : Instr) :
    usesLen i = true ↔ (opcodeOf i).toNat ∈ [0x01, 0x10, 0x11, 0x12, 0x13, 0x14, 0x16, 0x20, 0x21, 0x23] := by
  cases i <;> simp [usesLen, opcodeOf]

/-- The column "uses" of 30_encoding.md R92, for `ADDR`. -/
theorem usesAddr_iff (i : Instr) :
    usesAddr i = true ↔ (opcodeOf i).toNat ∈ [0x10, 0x11, 0x12, 0x13, 0x15, 0x20, 0x22] := by
  cases i <;> simp [usesAddr, opcodeOf]

/-- The decoder's check of unused fields, field by field (30_encoding.md R94). -/
theorem unusedZero_iff {d : Desc} {i : Instr} (h : decodeOpcode d = some i) :
    unusedZero i d = true ↔ ¬ UnusedFieldNonzero d := by
  simp only [unusedZero, UnusedFieldNonzero, Bool.and_eq_true, Bool.or_eq_true, usesImm_iff, usesSwaps_iff,
    usesLen_iff, usesAddr_iff, opcodeOf_of_decodeOpcode h]
  simp only [beq_iff_eq, Bool.not_eq_true', ← Bool.not_eq_true]
  tauto

/-- Only a SETHINT is ill-formed, by its hint (30_encoding.md R96). -/
theorem wellFormed_iff {d : Desc} {i : Instr} (h : decodeOpcode d = some i) :
    i.wellFormed = true ↔ ((descOpc d).toNat = 0x04 → (descImm d).toNat ≤ 2) := by
  unfold decodeOpcode at h
  split at h <;> cases h <;> simp_all [Instr.wellFormed]

/-! ### Illegal descriptors and wrong ports -/

/-- A turn of a port whose pending descriptor encodes no command leaves the ILLEGAL_COMMAND record and nothing else
(30_encoding.md R93, R94, R96). -/
theorem step_of_illegal {s : State} {p : Port} {d : Desc} {ts : List Turn} (hf : s.fault = false)
    (hs : s.turns = .port p :: ts) (hp : pending p d s) (hd : ∀ i, decode d ≠ .ok i) :
    step s = .next (withRecord 0x01#8 d (atTurn p ts s)) := by
  rw [step_port_pending hf hs hp, runDescriptor]
  cases h : decode d with
  | error e => exact congrArg _ (raiseFault_eq_withRecord ..)
  | ok i => exact absurd h (hd i)

/-- Settles O9: no command has the opcode. -/
theorem unassignedOpcodeFaults : Obligations.UnassignedOpcodeFaults := by
  intro s p d ts hf hs hp hopc
  refine step_of_illegal hf hs hp fun i hd => ?_
  obtain ⟨hi, -⟩ := decode_eq_ok_iff.1 hd
  exact hopc ((exists_decodeOpcode_iff d).1 ⟨i, hi⟩)

/-- Settles O10: a descriptor that decodes has neither field set. -/
theorem reservedOrUnusedFieldFaults : Obligations.ReservedOrUnusedFieldFaults := by
  intro s p d ts hf hs hp hfield
  refine step_of_illegal hf hs hp fun i hd => ?_
  obtain ⟨hi, hrsv, hzero, -⟩ := decode_eq_ok_iff.1 hd
  exact hfield.elim (absurd hrsv) ((unusedZero_iff hi).1 hzero)

/-- Settles O11: well-formedness is the bound on the hint, and the other checks are the premises. -/
theorem onlyHintValueIsRestricted : Obligations.OnlyHintValueIsRestricted := by
  refine ⟨fun s p d ts hf hs hp hopc himm => step_of_illegal hf hs hp fun i hd => ?_, fun d hopc hrsv hzero himm => ?_⟩
  · obtain ⟨hi, -, -, hwf⟩ := decode_eq_ok_iff.1 hd
    exact absurd ((wellFormed_iff hi).1 hwf hopc) (Nat.not_le_of_lt himm)
  · obtain ⟨i, hi⟩ := (exists_decodeOpcode_iff d).2 hopc
    exact ⟨i, decode_eq_ok_iff.2 ⟨hi, hrsv, (unusedZero_iff hi).2 hzero, (wellFormed_iff hi).2 himm⟩⟩

/-- The port check comes after well-formedness and before the configured flag (60_exceptions.md R234). -/
theorem genericFault_eq_portViolation {i : Instr} {s : State} (hwf : i.wellFormed = true)
    (hport : mayIssue s.active i = false) : genericFault i s = some .portViolation := by
  simp [genericFault, hwf, hport]

/-- Settles O12: the port check fails, whatever the block's configuration. -/
theorem wrongPortFaults : Obligations.WrongPortFaults := by
  intro i s hwf hport
  have hissue : mayIssue s.active i = false := eq_false_of_ne_true fun h => hport ((mayIssue_iff _ _).1 h)
  rw [exec_eq_runCommand, runCommand_generic _ _ _ _ (genericFault_eq_portViolation hwf hissue),
    raiseFault_eq_withRecord]
  rfl

end Sys2Proof.Machine

/-! The statements of 40_ring_control.md: who needs quiescence (R120), what RESIZE, CLEAR and FILLSIL leave (R121, R124,
R125), and what AVAIL and FREE count (R122, R123). -/

namespace Sys2Proof.Machine

/-! ### The end of a command on each port -/

theorem finish_of_active_P {s : State} (h : s.active = .P) (v : Word) (ok : Bool) :
    finish v ok s = { s with rvalP := v, rokP := ok, busyP := false } := by
  simp [finish, h]

theorem finish_of_active_C {s : State} (h : s.active = .C) (v : Word) (ok : Bool) :
    finish v ok s = { s with rvalC := v, rokC := ok, busyC := false } := by
  simp [finish, h]

theorem finish_of_active_K {s : State} (h : s.active = .K) (v : Word) (ok : Bool) :
    finish v ok s = { s with rvalK := v, rokK := ok } := by
  simp [finish, h]

/-- A command that passes its checks on K leaves its body's state with K's results written (10_state.md R35, R44). -/
theorem exec_of_ok_on_K {i : Instr} {s : State} {r : Reply} (hactive : s.active = .K) (hg : genericFault i s = none)
    (hb : commandBody i s = .ok r) : exec i s = .next { r.state with rvalK := r.val, rokK := r.ok } := by
  have hr : r.state.active = .K := (commandBody_effect hb).surroundings.active.trans hactive
  rw [exec_of_ok hg hb, finish_of_active_K hr]

/-! ### The shared checks of the control commands -/

/-- The four reconfigurations need quiescence (40_ring_control.md R120). -/
theorem needsQuiescence_iff (i : Instr) :
    needsQuiescence i = true ↔ (opcodeOf i).toNat ∈ [0x01, 0x02, 0x03, 0x04] := by
  cases i <;> simp [needsQuiescence, opcodeOf]

/-- K may issue every opcode below those of P and C (30_encoding.md R92). -/
theorem mayIssue_of_active_K {i : Instr} {s : State} (hactive : s.active = .K) (hop : (opcodeOf i).toNat ≤ 0x09) :
    mayIssue s.active i = true :=
  (mayIssue_iff _ _).2 (hactive ▸ hop)

/-- The quiescence check is the last of the shared checks (60_exceptions.md R234). -/
theorem genericFault_eq_quiescenceViolation {i : Instr} {s : State} (hwf : i.wellFormed = true)
    (hport : mayIssue s.active i = true) (hcfg : needsConfig i = true → s.cfg = true)
    (hneeds : needsQuiescence i = true) (hbusy : s.busyP = true ∨ s.busyC = true) :
    genericFault i s = some .quiescenceViolation := by
  have hc : (needsConfig i && !s.cfg) = false := by
    cases h : needsConfig i
    · rfl
    · simp [hcfg h]
  simp [genericFault, hwf, hport, hc, hneeds, hbusy]

/-- The shared checks pass for a reconfiguration of a quiescent block. -/
theorem genericFault_eq_none_of_quiescent {i : Instr} {s : State} (hwf : i.wellFormed = true) (hactive : s.active = .K)
    (hport : mayIssue .K i = true) (hcfg : needsConfig i = true → s.cfg = true) (hbusyP : s.busyP = false)
    (hbusyC : s.busyC = false) : genericFault i s = none :=
  (genericFault_eq_none i s).2 ⟨hwf, hactive ▸ hport, hcfg, fun _ => ⟨hbusyP, hbusyC⟩⟩

/-- CLEAR, FILLSIL, SETHINT, AVAIL and FREE have no check of their own and answer `ok` (40_ring_control.md R122 to R125,
43_format_push.md R193). -/
theorem commandBody_control_ok {i : Instr} (h : (opcodeOf i).toNat ∈ [0x02, 0x03, 0x04, 0x08, 0x09]) (s : State) :
    ∃ r, commandBody i s = .ok r ∧ r.ok = true := by
  cases i with
  | clear | fillsil | sethint _ | avail | free => exact ⟨_, rfl, rfl⟩
  | _ => simp [opcodeOf] at h

/-- Settles O14: a command in flight fails the last shared check, which only the four reconfigurations have; without
one, none of the five other than RESIZE can fail. -/
theorem reconfigurationNeedsQuiescence : Obligations.ReconfigurationNeedsQuiescence := by
  refine ⟨fun i s hwf hop hactive hcfg hbusy => ?_, fun i s hwf hop hactive hcfg hquiet => ?_⟩
  · have hport := mayIssue_of_active_K hactive (i := i) (by simp at hop; omega)
    have hconf : needsConfig i = true → s.cfg = true := fun h => hcfg.resolve_right fun hmem => by
      obtain ⟨h1, h4⟩ := (needsConfig_iff i).1 h
      simp [h1, h4] at hmem
    rw [exec_eq_runCommand, runCommand_generic _ _ _ _
      (genericFault_eq_quiescenceViolation hwf hport hconf ((needsQuiescence_iff i).2 hop) hbusy),
      raiseFault_eq_withRecord]
    rfl
  · have hport := mayIssue_of_active_K hactive (i := i) (by simp at hop; omega)
    have hidle : needsQuiescence i = true → s.busyP = false ∧ s.busyC = false := fun h =>
      hquiet.resolve_right fun hmem => by
        have := (needsQuiescence_iff i).1 h
        simp at this hmem
        omega
    have hg := (genericFault_eq_none i s).2 ⟨hwf, hport, fun _ => hcfg, hidle⟩
    obtain ⟨r, hb, hok⟩ := commandBody_control_ok hop s
    exact ⟨_, exec_of_ok_on_K hactive hg hb, (commandBody_effect hb).surroundings.fault, hok⟩

/-! ### RESIZE, CLEAR and FILLSIL on a quiescent block -/

/-- Rounding up to a power of two does not pass `CAP_MAX`, itself a power of two (40_ring_control.md R121). -/
theorem roundCapacity_le_capMax_iff (c : Config) (n : Nat) : roundCapacity n ≤ capMax c ↔ n ≤ capMax c := by
  have hmax := capMax_le c
  obtain hn | hn := Nat.lt_or_ge (2 ^ 31) n
  · rw [roundCapacity_beyond n hn]
    omega
  · obtain ⟨j, -, hround, hle, hmin⟩ := roundCapacity_spec n hn
    rw [hround]
    exact ⟨hle.trans, fun h => Nat.pow_le_pow_right (by decide) (hmin _ h)⟩

/-- A request that `CAP_MAX` allows passes RESIZE's own check (40_ring_control.md R121). -/
theorem resizeBody_ok {len : Word} {s : State} (hpos : 1 ≤ len.toNat) (hmax : len.toNat ≤ capMax s.config) (b : Byte) :
    resizeBody len b s = .ok {
      state := revokeGrants { s with
        cap := BitVec.ofNat 32 (roundCapacity len.toNat), cfg := true, ring := [], wr := 0#32, rd := 0#32, silence := b }
      val := 0#32, ok := true } := by
  rw [resizeBody, if_neg (by omega), if_neg (Nat.not_lt.2 ((roundCapacity_le_capMax_iff _ _).2 hmax))]

/-- The rounded capacity fits the register `CAP` (40_ring_control.md R121). -/
theorem toNat_roundCapacity {n : Nat} (h : n ≤ 2 ^ 31) :
    (BitVec.ofNat 32 (roundCapacity n)).toNat = roundCapacity n := by
  obtain ⟨j, hj, hround, -⟩ := roundCapacity_spec n h
  have hpow : 2 ^ j < 2 ^ 32 := Nat.pow_lt_pow_right (by decide) hj
  rw [hround, BitVec.toNat_ofNat, Nat.mod_eq_of_lt hpow]

/-- Settles O28: the rounded capacity is within `CAP_MAX` exactly when the request is, and storage that lists nothing
reads as silence everywhere. -/
theorem resizeReconfigures : Obligations.ResizeReconfigures := by
  intro len b s hactive hbusyP hbusyC
  have hg : genericFault (.resize len b) s = none :=
    genericFault_eq_none_of_quiescent rfl hactive rfl (fun h => by cases h) hbusyP hbusyC
  refine ⟨fun ⟨hpos, hmax⟩ => ?_, fun hbad => ?_⟩
  · have hfits := hmax.trans (capMax_le s.config)
    obtain ⟨j, -, hround, hle, hmin⟩ := roundCapacity_spec _ hfits
    have hcap := (toNat_roundCapacity hfits).trans hround
    exact ⟨_, exec_of_ok_on_K hactive hg (resizeBody_ok hpos hmax b), rfl, ⟨j, hcap, hle, hmin⟩, fun o _ => rfl⟩
  · refine exec_of_error hg (resizeBody_error len b s (hbad.imp_right fun hover => ?_))
    exact Nat.not_le.1 fun h => Nat.not_le.2 hover ((roundCapacity_le_capMax_iff _ _).1 h)

/-- Settles O29: the block is configured and quiescent, so CLEAR's effects follow. -/
theorem clearKeepsStorage : Obligations.ClearKeepsStorage := by
  intro s hactive hcfg hbusyP hbusyC
  have hg : genericFault .clear s = none :=
    genericFault_eq_none_of_quiescent rfl hactive rfl (fun _ => hcfg) hbusyP hbusyC
  exact exec_of_ok_on_K hactive hg rfl

/-- Settles O30: storage that lists nothing reads as silence everywhere. -/
theorem fillSilenceFillsRing : Obligations.FillSilenceFillsRing := by
  intro s hactive hcfg hbusyP hbusyC
  have hg : genericFault .fillsil s = none :=
    genericFault_eq_none_of_quiescent rfl hactive rfl (fun _ => hcfg) hbusyP hbusyC
  exact ⟨_, exec_of_ok_on_K hactive hg rfl, rfl, fun o _ => rfl⟩

/-! ### AVAIL and FREE on every port -/

/-- The free bytes end at the slot before the read cursor (10_state.md R28). -/
theorem add_freeBytes_mod {cap w r : Word} (hw : w.toNat < cap.toNat) (hr : r.toNat < cap.toNat) :
    (w.toNat + freeBytes cap w r + 1) % cap.toNat = r.toNat := by
  have hlt := freeBytes_lt cap w r (by omega)
  rw [Nat.add_assoc, add_mod_of_lt _ _ _ hw (by omega), freeBytes_eq cap w r hw hr]
  split_ifs <;> omega

/-- A command that only reads the state writes its count to the results of the port that issued it, and ends there. -/
theorem exec_count_on_each_port {i : Instr} {s : State} {n : Nat} (hg : genericFault i s = none)
    (hb : commandBody i s = .ok { state := s, val := BitVec.ofNat 32 n, ok := true }) :
    (s.active = .P → exec i s = .next { s with rvalP := BitVec.ofNat 32 n, rokP := true, busyP := false }) ∧
      (s.active = .C → exec i s = .next { s with rvalC := BitVec.ofNat 32 n, rokC := true, busyC := false }) ∧
      (s.active = .K → exec i s = .next { s with rvalK := BitVec.ofNat 32 n, rokK := true }) := by
  rw [exec_of_ok hg hb]
  exact ⟨fun h => congrArg _ (finish_of_active_P h ..), fun h => congrArg _ (finish_of_active_C h ..),
    fun h => congrArg _ (finish_of_active_K h ..)⟩

/-- Settles O31: the count is the available bytes of the live cursors. -/
theorem availCountsLiveCursors : Obligations.AvailCountsLiveCursors := by
  intro s hring hcfg
  obtain ⟨hw, hr⟩ := hring.cursors_lt hcfg
  have hg : genericFault .avail s = none := genericFault_eq_none_of_port rfl rfl hcfg rfl
  exact ⟨_, availBytes_lt s.cap s.wr s.rd (Nat.zero_lt_of_lt hw), add_availBytes_mod hw hr,
    exec_count_on_each_port hg rfl⟩

/-- Settles O32: the count is the free bytes of the live cursors. -/
theorem freeCountsLiveCursors : Obligations.FreeCountsLiveCursors := by
  intro s hring hcfg
  obtain ⟨hw, hr⟩ := hring.cursors_lt hcfg
  have hg : genericFault .free s = none := genericFault_eq_none_of_port rfl rfl hcfg rfl
  exact ⟨_, freeBytes_lt s.cap s.wr s.rd (Nat.zero_lt_of_lt hw), add_freeBytes_mod hw hr,
    exec_count_on_each_port hg rfl⟩

end Sys2Proof.Machine

/-! The statements of 41_zero_copy.md: what the zero-copy commands of P (R142 to R144) and of C (R145 to R147) leave, and
which commands change a grant (R148). -/

namespace Sys2Proof.Machine

/-! ### Commands that pass their checks on P and on C -/

/-- A command that passes its checks on P leaves its body's state with P's results written and P idle (10_state.md R34,
R43). -/
theorem exec_of_ok_on_P {i : Instr} {s : State} {r : Reply} (hactive : s.active = .P) (hg : genericFault i s = none)
    (hb : commandBody i s = .ok r) :
    exec i s = .next { r.state with rvalP := r.val, rokP := r.ok, busyP := false } := by
  have hr : r.state.active = .P := (commandBody_effect hb).surroundings.active.trans hactive
  rw [exec_of_ok hg hb, finish_of_active_P hr]

/-- A command that passes its checks on C leaves its body's state with C's results written and C idle (10_state.md R34,
R43). -/
theorem exec_of_ok_on_C {i : Instr} {s : State} {r : Reply} (hactive : s.active = .C) (hg : genericFault i s = none)
    (hb : commandBody i s = .ok r) :
    exec i s = .next { r.state with rvalC := r.val, rokC := r.ok, busyC := false } := by
  have hr : r.state.active = .C := (commandBody_effect hb).surroundings.active.trans hactive
  rw [exec_of_ok hg hb, finish_of_active_C hr]

/-! ### Which spans are contiguous, which offsets a grant holds -/

/-- A span fits at `WR` if it is free and ends within the buffer (41_zero_copy.md R140). -/
theorem le_contigFree_iff {cap w r : Word} (hw : w.toNat < cap.toNat) (n : Nat) :
    n ≤ contigFree cap w r ↔ n ≤ freeBytes cap w r ∧ w.toNat + n ≤ cap.toNat := by
  unfold contigFree
  omega

/-- A span can be read at `RD` if it is available and ends within the buffer (41_zero_copy.md R141). -/
theorem le_contigAvail_iff {cap w r : Word} (hr : r.toNat < cap.toNat) (n : Nat) :
    n ≤ contigAvail cap w r ↔ n ≤ availBytes cap w r ∧ r.toNat + n ≤ cap.toNat := by
  unfold contigAvail
  omega

/-- When an offset lies outside a grant; every offset does if there is none (41_zero_copy.md R143, R146). -/
theorem inGrant_eq_false_iff (base len : Word) (off : Addr) :
    inGrant base len off = false ↔ off.toNat < base.toNat ∨ base.toNat + len.toNat ≤ off.toNat := by
  rw [← Bool.not_eq_true, inGrant_iff]
  omega

/-! ### The producer's zero-copy commands -/

/-- Settles O33: what does not fit is not contiguously free. -/
theorem wregionGrantsContiguousSpan : Obligations.WregionGrantsContiguousSpan := by
  intro len s hactive hcfg hring
  have hg : genericFault (.wregion len) s = none :=
    genericFault_eq_none_of_port rfl (by simp [mayIssue, hactive]) hcfg rfl
  have hfits := le_contigFree_iff (r := s.snapP) (hring.cursors_lt hcfg).1 len.toNat
  refine ⟨fun h => exec_of_ok_on_P hactive hg (if_pos (hfits.2 h)), fun h => ?_⟩
  exact exec_of_ok_on_P hactive hg (if_neg fun hle => by have := hfits.1 hle; omega)

/-- Settles O34: the ring is a canonical store, which reads the byte written and every other byte as before. -/
theorem winwrWritesInsideGrant : Obligations.WinwrWritesInsideGrant := by
  intro off b s hactive hcfg hstores
  have hg : genericFault (.winwr off b) s = none :=
    genericFault_eq_none_of_port rfl (by simp [mayIssue, hactive]) hcfg rfl
  obtain ⟨-, hwf, -⟩ := hstores
  refine ⟨fun hin => ?_, fun hout => ?_⟩
  · have hgrant := ne_false_of_eq_true ((inGrant_iff s.wgb s.wgl off).2 hin)
    exact ⟨_, exec_of_ok_on_P hactive hg (if_neg hgrant), rfl, fun o => Memory.read_write _ _ _ o b _ hwf⟩
  · exact exec_of_error hg (winwrBody_error off b s ((inGrant_eq_false_iff ..).2 hout))

/-- Settles O35: the moved cursor lies below the capacity, so the register holds it. -/
theorem commitwAdvancesWriteCursor : Obligations.CommitwAdvancesWriteCursor := by
  intro n s hactive hcfg hring
  have hg : genericFault (.commitw n) s = none :=
    genericFault_eq_none_of_port rfl (by simp [mayIssue, hactive]) hcfg rfl
  refine ⟨fun hn => ?_, fun hover => exec_of_error hg (commitwBody_error n s hover)⟩
  have hcap := Nat.zero_lt_of_lt (hring.cursors_lt hcfg).1
  exact ⟨_, exec_of_ok_on_P hactive hg (if_neg (Nat.not_lt.2 hn)), rfl, advance_toNat s.cap s.wr n.toNat hcap⟩

/-! ### The consumer's zero-copy commands -/

/-- Settles O36: what is not available without wrapping is not contiguously available. -/
theorem rregionGrantsContiguousSpan : Obligations.RregionGrantsContiguousSpan := by
  intro len s hactive hcfg hring
  have hg : genericFault (.rregion len) s = none :=
    genericFault_eq_none_of_port rfl (by simp [mayIssue, hactive]) hcfg rfl
  have hfits := le_contigAvail_iff (w := s.snapC) (hring.cursors_lt hcfg).2 len.toNat
  refine ⟨fun h => exec_of_ok_on_C hactive hg (if_pos (hfits.2 h)), fun h => ?_⟩
  exact exec_of_ok_on_C hactive hg (if_neg fun hle => by have := hfits.1 hle; omega)

/-- Settles O37: widening a byte to a register keeps its value. -/
theorem winrdReadsInsideGrant : Obligations.WinrdReadsInsideGrant := by
  intro off s hactive hcfg
  have hg : genericFault (.winrd off) s = none :=
    genericFault_eq_none_of_port rfl (by simp [mayIssue, hactive]) hcfg rfl
  refine ⟨fun hin => ?_, fun hout => ?_⟩
  · have hgrant := ne_false_of_eq_true ((inGrant_iff s.rgb s.rgl off).2 hin)
    exact ⟨_, exec_of_ok_on_C hactive hg (if_neg hgrant), rfl, BitVec.toNat_setWidth_of_le (by decide)⟩
  · exact exec_of_error hg (winrdBody_error off s ((inGrant_eq_false_iff ..).2 hout))

/-- Settles O38: the moved cursor lies below the capacity, so the register holds it. -/
theorem advancerAdvancesReadCursor : Obligations.AdvancerAdvancesReadCursor := by
  intro n s hactive hcfg hring
  have hg : genericFault (.advancer n) s = none :=
    genericFault_eq_none_of_port rfl (by simp [mayIssue, hactive]) hcfg rfl
  refine ⟨fun hn => ?_, fun hover => exec_of_error hg (advancerBody_error n s hover)⟩
  have hcap := Nat.zero_lt_of_lt (hring.cursors_lt hcfg).2
  exact ⟨_, exec_of_ok_on_C hactive hg (if_neg (Nat.not_lt.2 hn)), rfl, advance_toNat s.cap s.rd n.toNat hcap⟩

/-! ### Who changes a grant -/

section GrantEffects

variable {i : Instr} {s u : State} (hu : BodyEffect s i u)

include hu

/-- RESIZE, CLEAR, FILLSIL, the pushes and COMMITW revoke the write grant (41_zero_copy.md R148). -/
theorem BodyEffect.writeGrant_revoked
    (hop : (opcodeOf i).toNat ∈ [0x01, 0x02, 0x03, 0x10, 0x11, 0x12, 0x13, 0x16]) :
    u.wgb = 0#32 ∧ u.wgl = 0#32 := by
  cases hu with
  | resize | clear | fillsil | push | push24 | push16to32 | pushdsd | commitw => exact ⟨rfl, rfl⟩
  | _ => simp [opcodeOf] at hop

/-- SETHINT, AVAIL, FREE, WINWR and the commands of C leave the write grant (41_zero_copy.md R148). -/
theorem BodyEffect.writeGrant_kept
    (hop : (opcodeOf i).toNat ∈ [0x04, 0x08, 0x09, 0x15, 0x20, 0x21, 0x22, 0x23]) :
    u.wgb = s.wgb ∧ u.wgl = s.wgl := by
  cases hu with
  | sethint | avail | free | winwr | pop | grantRead | refuseRead | winrd | advancer => exact ⟨rfl, rfl⟩
  | _ => simp [opcodeOf] at hop

/-- RESIZE, CLEAR, FILLSIL, POP and ADVANCER revoke the read grant (41_zero_copy.md R148). -/
theorem BodyEffect.readGrant_revoked (hop : (opcodeOf i).toNat ∈ [0x01, 0x02, 0x03, 0x20, 0x23]) :
    u.rgb = 0#32 ∧ u.rgl = 0#32 := by
  cases hu with
  | resize | clear | fillsil | pop | advancer => exact ⟨rfl, rfl⟩
  | _ => simp [opcodeOf] at hop

/-- SETHINT, AVAIL, FREE, WINRD and the commands of P leave the read grant (41_zero_copy.md R148). -/
theorem BodyEffect.readGrant_kept
    (hop : (opcodeOf i).toNat ∈ [0x04, 0x08, 0x09, 0x10, 0x11, 0x12, 0x13, 0x14, 0x15, 0x16, 0x22]) :
    u.rgb = s.rgb ∧ u.rgl = s.rgl := by
  cases hu with
  | push24 => simp [pushStaged]
  | sethint | avail | free | push | push16to32 | pushdsd | grantWrite | refuseWrite | winwr | commitw | winrd =>
    exact ⟨rfl, rfl⟩
  | _ => simp [opcodeOf] at hop

end GrantEffects

/-- WREGION that completes ends the write grant, or answers `ok` and grants the span at `WR` (41_zero_copy.md R142). -/
theorem writeGrant_of_wregion {i : Instr} {s : State} {r : Reply} (hop : (opcodeOf i).toNat = 0x14)
    (hg : genericFault i s = none) (hb : commandBody i s = .ok r) :
    (r.state.wgb = 0#32 ∧ r.state.wgl = 0#32) ∨
      ((finish r.val r.ok r.state).rokP = true ∧ r.state.wgb = s.wr ∧ i = .wregion r.state.wgl) := by
  cases i with
  | wregion len =>
    obtain ⟨-, hport, -⟩ := (genericFault_eq_none _ _).1 hg
    have hactive : s.active = .P := of_decide_eq_true hport
    simp only [commandBody, wregionBody] at hb
    split at hb <;> cases hb
    · exact .inr ⟨by simp [hactive], rfl, rfl⟩
    · exact .inl ⟨rfl, rfl⟩
  | _ => simp [opcodeOf] at hop

/-- RREGION that completes ends the read grant, or answers `ok` and grants the span at `RD` (41_zero_copy.md R145). -/
theorem readGrant_of_rregion {i : Instr} {s : State} {r : Reply} (hop : (opcodeOf i).toNat = 0x21)
    (hg : genericFault i s = none) (hb : commandBody i s = .ok r) :
    (r.state.rgb = 0#32 ∧ r.state.rgl = 0#32) ∨
      ((finish r.val r.ok r.state).rokC = true ∧ r.state.rgb = s.rd ∧ i = .rregion r.state.rgl) := by
  cases i with
  | rregion len =>
    obtain ⟨-, hport, -⟩ := (genericFault_eq_none _ _).1 hg
    have hactive : s.active = .C := of_decide_eq_true hport
    simp only [commandBody, rregionBody] at hb
    split at hb <;> cases hb
    · exact .inr ⟨by simp [hactive], rfl, rfl⟩
    · exact .inl ⟨rfl, rfl⟩
  | _ => simp [opcodeOf] at hop

/-- Settles O39: a command that completes has its body's effect on the grants, which its result does not touch. -/
theorem grantRevocation : Obligations.GrantRevocation := by
  refine ⟨fun i s t _ h hft => ?_, fun s t ts hs h => ?_⟩
  · obtain ⟨c, rfl⟩ | ⟨r, hg, hb, rfl⟩ := exec_cases h
    · simp at hft
    · have hu := commandBody_effect hb
      exact ⟨hu.writeGrant_revoked, (writeGrant_of_wregion · hg hb), hu.writeGrant_kept,
        hu.readGrant_revoked, (readGrant_of_rregion · hg hb), hu.readGrant_kept⟩
  · rw [step_reset_eq hs h]
    exact ⟨rfl, rfl, rfl, rfl⟩

end Sys2Proof.Machine

/-! The statements of 42_raw_transfer.md: which bytes PUSH (R172) and POP (R173) copy, what that does to the byte queue,
and first in, first out (R175). -/

namespace Sys2Proof.Machine

/-! ### The clamped count, and the bytes that it covers -/

/-- A request that is clamped still fits a result register (42_raw_transfer.md R174). -/
theorem toNat_ofNat_min_toNat (len : Word) (k : Nat) :
    (BitVec.ofNat 32 (min len.toNat k)).toNat = min len.toNat k := by
  rw [BitVec.toNat_ofNat, Nat.mod_eq_of_lt (Nat.lt_of_le_of_lt (Nat.min_le_left ..) len.isLt)]

/-- One inaccessible byte makes a host buffer inaccessible (20_memory.md R63). -/
theorem hostRangeOK_eq_false {c : Config} {a n : Nat} (h : ∃ i, i < n ∧ hostOK c (a + i) = false) :
    hostRangeOK c a n = false := by
  obtain ⟨i, hi, hbad⟩ := h
  exact eq_false_of_ne_true fun hok => ne_true_of_eq_false hbad ((hostRangeOK_iff c a n).1 hok i hi)

theorem getElem_memRead (s : State) (a n i : Nat) (h : i < n) :
    (memRead s a n)[i]'(by simpa using h) = hostByte s (a + i) := Memory.getElem_readList _ _ _ _ _ h

/-- `MemRead` after `MemWrite` of the same buffer returns the bytes written. -/
theorem memRead_memWrite {s : State} {a n : Nat} {v : List Byte} (hhost : Memory.wf hostFill hostSize s.hmem = true)
    (hv : v.length = n) (hend : a + n ≤ hostSize) : memRead (memWrite a v s) a n = v := by
  subst hv
  refine List.ext_getElem (by simp) fun i _ hi => ?_
  rw [getElem_memRead _ _ _ _ hi, hostByte_memWrite s a _ v hhost hend, if_pos (by omega)]
  simp [hi]

/-- `RingPut` stores byte `i` of its list at the offset `i` ahead of `WR` (42_raw_transfer.md R170). -/
theorem ringByte_ringPut_ahead {s : State} {v : List Byte} (hwf : Memory.wf s.silence s.cap.toNat s.ring = true)
    (hw : s.wr.toNat < s.cap.toNat) (hv : v.length < s.cap.toNat) {i : Nat} (hi : i < v.length) :
    ringByte (ringPut v s) ((s.wr.toNat + i) % s.cap.toNat) = v[i] := by
  rw [ringByte_ringPut v s _ hwf hw hv.le (Nat.mod_lt _ (Nat.zero_lt_of_lt hw)),
    ringDist_ahead _ _ _ hw (hi.trans hv), if_pos hi]
  simp [hi]

/-- `RingPut` leaves every offset that is not one of its own (42_raw_transfer.md R170). -/
theorem ringByte_ringPut_elsewhere {s : State} {v : List Byte} (hwf : Memory.wf s.silence s.cap.toNat s.ring = true)
    (hw : s.wr.toNat < s.cap.toNat) (hv : v.length < s.cap.toNat) {o : Nat} (ho : o < s.cap.toNat)
    (hother : ∀ i, i < v.length → o ≠ (s.wr.toNat + i) % s.cap.toNat) :
    ringByte (ringPut v s) o = ringByte s o := by
  rw [ringByte_ringPut v s o hwf hw hv.le ho, if_neg fun hlt => ?_]
  exact hother _ hlt (ahead_ringDist _ _ _ hw ho).symm

/-- `RingGet(n)` returns the oldest `n` bytes of the queue (42_raw_transfer.md R171, 10_state.md R28). -/
theorem ringBytes_eq_take_contents {s : State} {n : Nat} (hr : s.rd.toNat < s.cap.toNat)
    (hn : n ≤ availBytes s.cap s.wr s.rd) : ringBytes n s = (contents s).take n := by
  have hcap := availBytes_lt s.cap s.wr s.rd (Nat.zero_lt_of_lt hr)
  rw [ringBytes_eq n s hr (hn.trans hcap.le), contents, ← List.map_take, List.take_range, Nat.min_eq_left hn]

/-! ### PUSH and POP, byte by byte -/

/-- Settles O40: `RingPut` stores the clamped bytes from `WR` on and around. -/
theorem pushCopiesClampedBytes : Obligations.PushCopiesClampedBytes := by
  intro addr len s hactive hcfg hring hstores
  obtain ⟨hw, -⟩ := hring.cursors_lt hcfg
  obtain ⟨-, hwf, -⟩ := hstores
  have hpos := Nat.zero_lt_of_lt hw
  refine ⟨fun hok => ?_, fun hbad => exec_push_of_inaccessible hcfg hactive (hostRangeOK_eq_false hbad)⟩
  generalize hn : min len.toNat (freeBytes s.cap s.wr s.snapP) = n at hok ⊢
  have hexec := exec_push_of_accessible hcfg hactive hn ((hostRangeOK_iff ..).2 hok)
  rw [finish_of_active_P (by exact hactive)] at hexec
  have hlen := length_memRead s addr.toNat n
  have hfit : (memRead s addr.toNat n).length < s.cap.toNat := by
    rw [hlen, ← hn]
    exact (Nat.min_le_right ..).trans_lt (freeBytes_lt _ _ _ hpos)
  refine ⟨_, n, rfl, hexec, rfl, hn ▸ toNat_ofNat_min_toNat .., ?_, fun i hi => ?_, fun o ho hother => ?_⟩
  · exact (advance_toNat s.cap s.wr _ hpos).trans (by rw [hlen])
  · rw [← getElem_memRead s _ _ i hi]
    exact ringByte_ringPut_ahead hwf hw hfit (by rwa [hlen])
  · exact ringByte_ringPut_elsewhere hwf hw hfit ho (by rwa [hlen])

/-- Settles O41: `RingGet` reads the clamped bytes from `RD` on and around, and `MemWrite` stores them at `ADDR`. -/
theorem popCopiesClampedBytes : Obligations.PopCopiesClampedBytes := by
  intro addr len s hactive hcfg hring hstores
  obtain ⟨-, hr⟩ := hring.cursors_lt hcfg
  obtain ⟨hhost, -⟩ := hstores
  have hpos := Nat.zero_lt_of_lt hr
  refine ⟨fun hok => ?_, fun hbad => exec_pop_of_inaccessible hcfg hactive (hostRangeOK_eq_false hbad)⟩
  generalize hn : min len.toNat (availBytes s.cap s.snapC s.rd) = n at hok ⊢
  have hrange := (hostRangeOK_iff ..).2 hok
  have hexec := exec_pop_of_accessible hcfg hactive hn hrange
  rw [finish_of_active_C (by exact hactive)] at hexec
  have hfit : n ≤ s.cap.toNat := hn ▸ (Nat.min_le_right ..).trans (availBytes_lt _ _ _ hpos).le
  have hlen := length_ringBytes n s
  have hwrite := fun a => hostByte_memWrite (ringDrop n s) addr.toNat a (ringBytes n s) hhost
    (by rw [hlen]; exact addr_add_le_hostSize hrange)
  rw [hlen] at hwrite
  refine ⟨_, n, rfl, hexec, rfl, hn ▸ toNat_ofNat_min_toNat .., advance_toNat _ _ _ hpos, fun i hi => ?_,
    fun a ha => ?_⟩
  · refine (hwrite _).trans ?_
    rw [if_pos (by omega), ringBytes_eq n s hr hfit]
    simp [hi]
  · exact (hwrite a).trans (if_neg (by omega))

/-! ### PUSH and POP on the byte queue -/

/-- A command that leaves no fault passed every check. -/
theorem exec_completed {i : Instr} {s t : State} (h : exec i s = .next t) (hft : t.fault = false) :
    ∃ r, genericFault i s = none ∧ commandBody i s = .ok r ∧ t = finish r.val r.ok r.state := by
  obtain ⟨c, rfl⟩ | hr := exec_cases h
  · simp at hft
  · exact hr

/-- The result of PUSH is the clamped count (42_raw_transfer.md R172). -/
theorem toNat_val_pushBody {addr : Addr} {len : Word} {s : State} {r : Reply} (hb : pushBody addr len s = .ok r) :
    r.val.toNat = min len.toNat (freeBytes s.cap s.wr s.snapP) := by
  simp only [pushBody] at hb
  split at hb <;> cases hb
  exact toNat_ofNat_min_toNat ..

/-- The result of POP is the clamped count (42_raw_transfer.md R173). -/
theorem toNat_val_popBody {addr : Addr} {len : Word} {s : State} {r : Reply} (hb : popBody addr len s = .ok r) :
    r.val.toNat = min len.toNat (availBytes s.cap s.snapC s.rd) := by
  simp only [popBody] at hb
  split at hb <;> cases hb
  exact toNat_ofNat_min_toNat ..

/-- What POP leaves at `ADDR` is what `RingGet` returned (42_raw_transfer.md R173). -/
theorem memRead_popBody {addr : Addr} {len : Word} {s : State} {r : Reply}
    (hhost : Memory.wf hostFill hostSize s.hmem = true) (hb : popBody addr len s = .ok r) :
    memRead r.state addr.toNat r.val.toNat = ringBytes r.val.toNat s := by
  rw [toNat_val_popBody hb]
  simp only [popBody] at hb
  split at hb <;> cases hb
  rename_i hok
  exact memRead_memWrite (s := ringDrop _ s) hhost (length_ringBytes ..)
    (addr_add_le_hostSize (eq_true_of_ne_false hok))

/-- Settles O43: the free bytes that P counts from its snapshot are free, so `RingPut` only adds to the queue. -/
theorem pushAppendsToQueue : Obligations.PushAppendsToQueue := by
  intro addr len s t hI hbusy hactive _ h hft
  obtain ⟨r, hg, hb, rfl⟩ := exec_completed h hft
  have hr : r.state.active = .P := (commandBody_effect hb).surroundings.active.trans hactive
  obtain ⟨-, hw, hrd⟩ := configured_of_genericFault hI hg (by simp [hactive])
  obtain ⟨-, hwf, -⟩ := hI.stores
  rw [contents_finish, contents_pushBody hw hrd hwf (freeBytes_snapP_le hI hg hactive hbusy) hb,
    finish_of_active_P hr, toNat_val_pushBody hb]

/-- Settles O44: the bytes that C counts from its snapshot are available, so `RingGet` takes from the queue's front. -/
theorem popTakesFromQueue : Obligations.PopTakesFromQueue := by
  intro addr len s t hI hbusy hactive _ h hft
  obtain ⟨r, hg, hb, rfl⟩ := exec_completed h hft
  have hr : r.state.active = .C := (commandBody_effect hb).surroundings.active.trans hactive
  obtain ⟨-, hw, hrd⟩ := configured_of_genericFault hI hg (by simp [hactive])
  obtain ⟨hhost, -⟩ := hI.stores
  have hseen := availBytes_snapC_le hI hg hactive hbusy
  have hval := toNat_val_popBody hb
  rw [contents_finish, contents_popBody hw hrd hseen hb, finish_of_active_C hr, ← hval]
  refine ⟨(memRead_popBody hhost hb).trans (ringBytes_eq_take_contents hrd ?_), rfl⟩
  rw [hval]
  exact (Nat.min_le_right ..).trans hseen

/-! ### Sequences of whole transfers -/

/-- A state between two commands of a run without a fault. -/
def Running (s : State) : Prop := Inv s ∧ s.fault = false

/-- What PUSH does when it is issued, completes and is accepted whole (42_raw_transfer.md R175). -/
theorem exec_of_pushWhole {addr : Addr} {len : Word} {s t : State} {v : List Byte}
    (h : pushWhole addr len s = some (v, t)) :
    exec (.push addr len) { issueP (encode (.push addr len)) s with active := .P } = .next t ∧ t.fault = false ∧
      t.rvalP = len ∧ v = memRead s addr.toNat len.toNat := by
  unfold pushWhole at h
  split at h
  · split_ifs at h with hwhole
    cases h
    exact ⟨‹_›, hwhole.1, hwhole.2, rfl⟩
  · cases h
  · cases h

/-- What POP does when it is issued, completes and is given its full length (42_raw_transfer.md R175). -/
theorem exec_of_popWhole {addr : Addr} {len : Word} {s t : State} {v : List Byte}
    (h : popWhole addr len s = some (v, t)) :
    exec (.pop addr len) { issueC (encode (.pop addr len)) s with active := .C } = .next t ∧ t.fault = false ∧
      t.rvalC = len ∧ v = memRead t addr.toNat len.toNat := by
  unfold popWhole at h
  split at h
  · split_ifs at h with hwhole
    cases h
    exact ⟨‹_›, hwhole.1, hwhole.2, rfl⟩
  · cases h
  · cases h

/-- A PUSH that is accepted whole adds its chunk to the end of the queue. -/
theorem pushWhole_appends {addr : Addr} {len : Word} {s t : State} {v : List Byte}
    (h : pushWhole addr len s = some (v, t)) (hs : Running s) :
    v.length = len.toNat ∧ Running t ∧ contents t = contents s ++ v := by
  obtain ⟨hI, hf⟩ := hs
  obtain ⟨hexec, hft, hlen, rfl⟩ := exec_of_pushWhole h
  have hissued : Inv { issueP (encode (.push addr len)) s with active := .P } :=
    (inv_issueP hI hf _).with_agents _ .P _ _ _
  have hqueue := pushAppendsToQueue _ _ _ _ hissued rfl rfl hf hexec hft
  rw [hlen] at hqueue
  obtain ⟨r, hg, hb, rfl⟩ := exec_completed hexec hft
  exact ⟨length_memRead .., ⟨inv_finish_P hissued hf hg (commandBody_effect hb) rfl rfl _ _, hft⟩, hqueue⟩

/-- A POP that is given its full length takes its chunk from the front of the queue. -/
theorem popWhole_takes {addr : Addr} {len : Word} {s t : State} {v : List Byte}
    (h : popWhole addr len s = some (v, t)) (hs : Running s) :
    v.length = len.toNat ∧ Running t ∧ contents s = v ++ contents t := by
  obtain ⟨hI, hf⟩ := hs
  obtain ⟨hexec, hft, hlen, rfl⟩ := exec_of_popWhole h
  have hissued : Inv { issueC (encode (.pop addr len)) s with active := .C } :=
    (inv_issueC hI hf _).with_agents _ .C _ _ _
  obtain ⟨hfront, hrest⟩ := popTakesFromQueue _ _ _ _ hissued rfl rfl hf hexec hft
  rw [hlen] at hfront hrest
  obtain ⟨r, hg, hb, rfl⟩ := exec_completed hexec hft
  refine ⟨length_memRead .., ⟨inv_finish_C hissued hf hg (commandBody_effect hb) rfl rfl _ _, hft⟩, ?_⟩
  rw [hfront, hrest]
  exact (List.take_append_drop ..).symm

/-- The number of bytes that whole transfers of the lengths in the list move. -/
def totalLength (l : List (Addr × Word)) : Nat := ((l.map Prod.snd).map BitVec.toNat).sum

section Sequences

variable {one : Addr → Word → State → Option (List Byte × State)}

theorem transferAll_cons_eq_some {addr : Addr} {len : Word} {rest : List (Addr × Word)} {s u : State}
    {bytes : List Byte} (h : transferAll one ((addr, len) :: rest) s = some (bytes, u)) :
    ∃ v t more, one addr len s = some (v, t) ∧ transferAll one rest t = some (more, u) ∧ bytes = v ++ more := by
  rw [transferAll] at h
  split at h
  · cases h
  · rename_i v t hone
    split at h <;> cases h
    exact ⟨v, t, _, hone, ‹_›, rfl⟩

/-- What a chunk does to the state, if it composes over consecutive chunks, a sequence of whole transfers does with all
their bytes. -/
theorem transferAll_composes {R : State → List Byte → State → Prop} (hnil : ∀ s, R s [] s)
    (happend : ∀ s m t v w, R s v m → R m w t → R s (v ++ w) t)
    (hone : ∀ {addr : Addr} {len : Word} {s t : State} {v : List Byte}, one addr len s = some (v, t) → Running s →
      v.length = len.toNat ∧ Running t ∧ R s v t)
    {l : List (Addr × Word)} {s t : State} {bytes : List Byte} (h : transferAll one l s = some (bytes, t))
    (hs : Running s) : bytes.length = totalLength l ∧ Running t ∧ R s bytes t := by
  induction l generalizing s bytes with
  | nil =>
    cases h
    exact ⟨rfl, hs, hnil _⟩
  | cons x rest ih =>
    obtain ⟨v, m, more, hfirst, hrest, rfl⟩ := transferAll_cons_eq_some h
    obtain ⟨hv, hm, hchunk⟩ := hone hfirst hs
    obtain ⟨hmore, ht, hchunks⟩ := ih hrest hm
    refine ⟨?_, ht, happend _ _ _ _ _ hchunk hchunks⟩
    rw [List.length_append, hv, hmore]
    rfl

end Sequences

/-- PUSH commands that are each accepted whole add all their chunks, in order, to the end of the queue. -/
theorem transferAll_pushWhole_appends {l : List (Addr × Word)} {s t : State} {bytes : List Byte}
    (h : transferAll pushWhole l s = some (bytes, t)) (hs : Running s) :
    bytes.length = totalLength l ∧ Running t ∧ contents t = contents s ++ bytes :=
  transferAll_composes (R := fun s v t => contents t = contents s ++ v) (fun _ => (List.append_nil _).symm)
    (fun _ _ _ _ _ hv hw => by rw [hw, hv, List.append_assoc]) pushWhole_appends h hs

/-- POP commands that are each given their full length take all their chunks, in order, from the front of the queue. -/
theorem transferAll_popWhole_takes {l : List (Addr × Word)} {s t : State} {bytes : List Byte}
    (h : transferAll popWhole l s = some (bytes, t)) (hs : Running s) :
    bytes.length = totalLength l ∧ Running t ∧ contents s = bytes ++ contents t :=
  transferAll_composes (R := fun s v t => contents s = v ++ contents t) (fun _ => rfl)
    (fun _ _ _ _ _ hv hw => by rw [hv, hw, List.append_assoc]) popWhole_takes h hs

/-- Settles O46: from an empty queue the pushes leave exactly the pushed bytes, of which the pops take as many. -/
theorem pushPopRoundTrip : Obligations.PushPopRoundTrip := by
  intro s t u sources dests pushed popped hI _ hf hempty hpush hpop hlens
  obtain ⟨hpushed, ht, hfilled⟩ := transferAll_pushWhole_appends hpush ⟨hI, hf⟩
  obtain ⟨hpopped, -, htaken⟩ := transferAll_popWhole_takes hpop ht
  have hlength : popped.length = pushed.length := by
    rw [hpopped, hpushed, totalLength, totalLength, hlens]
  have hbytes : popped ++ contents u = pushed ++ [] := by
    rw [← htaken, hfilled, contents_eq_nil hempty, List.nil_append, List.append_nil]
  exact List.append_inj_left hbytes hlength

end Sys2Proof.Machine

/-! The statements of 43_format_push.md: the hint update (R193), the detection of the alignment (R194 to R196), and
which bytes the format-converting pushes put in the ring (R197 to R204). -/

namespace Sys2Proof.Machine

/-! ### SETHINT, and the bits of a byte -/

/-- SETHINT with a legal hint on a quiescent block updates the hint and answers 0 (43_format_push.md R193). -/
theorem exec_sethint_of_legal {h : Byte} {s : State} (hactive : s.active = .K) (hbusyP : s.busyP = false)
    (hbusyC : s.busyC = false) (hle : h.toNat ≤ 2) : exec (.sethint h) s =
      .next { updateHint (hintOfCode h) s with rvalK := 0#32, rokK := true } := by
  have hg : genericFault (.sethint h) s = none :=
    genericFault_eq_none_of_quiescent (decide_eq_true hle) hactive rfl (fun hneeds => by cases hneeds) hbusyP hbusyC
  exact exec_of_ok_on_K hactive hg rfl

/-- Settles O47: a legal hint on a quiescent block passes every check, and a hint above 2 fails the first. -/
theorem sethintRearmsDetection : Obligations.SethintRearmsDetection := by
  intro h s hactive hbusyP hbusyC
  refine ⟨?_, ?_, ?_, fun hbad => ?_⟩
  · rintro rfl
    exact exec_sethint_of_legal hactive hbusyP hbusyC (by decide)
  · rintro rfl
    exact exec_sethint_of_legal hactive hbusyP hbusyC (by decide)
  · rintro rfl
    exact exec_sethint_of_legal hactive hbusyP hbusyC (by decide)
  · have hg : genericFault (.sethint h) s = some .illegalCommand :=
      if_pos (decide_eq_false (Nat.not_le_of_lt hbad))
    rw [exec_eq_runCommand, runCommand_generic _ _ _ _ hg, raiseFault_eq_withRecord]
    rfl

/-- Settles O52: a byte reversed twice has its own bits. -/
theorem bitReversalMirrorsByte : Obligations.BitReversalMirrorsByte := by
  refine fun b => ⟨getLsbD_rev8 b, BitVec.eq_of_getLsbD_eq fun i hi => ?_, by decide, by decide, by decide⟩
  rw [getLsbD_rev8 _ i hi, getLsbD_rev8 b _ (by omega), Nat.sub_sub_self (by omega)]

/-! ### The bytes that the format pushes stage -/

/-- Among pieces of `n` elements each, element `b` of piece `j` is at place `n * j + b`. -/
theorem getElem?_flatMap_range {f : Nat → List Byte} {n k j b : Nat} (hlen : ∀ x, (f x).length = n) (hj : j < k)
    (hb : b < n) : ((List.range k).flatMap f)[n * j + b]? = (f j)[b]? := by
  induction k with
  | zero => omega
  | succ k ih =>
    have hpieces : ((List.range k).flatMap f).length = n * k := by
      rw [flatMap_length_const _ f n hlen, List.length_range]
    rw [List.range_succ, List.flatMap_append, List.flatMap_singleton]
    obtain hlt | rfl := Nat.lt_succ_iff_lt_or_eq.1 hj
    · have hbefore : n * j + n ≤ n * k := Nat.mul_le_mul_left n hlt
      rw [List.getElem?_append_left (by omega), ih hlt]
    · rw [List.getElem?_append_right (by omega), hpieces, Nat.add_sub_cancel_left]

/-- Byte `b` of what a container yields: the significant bytes start at its byte 1 if it is MsbAligned, else at its
byte 0 (43_format_push.md R198). -/
theorem getElem?_repack (s : State) (side : SampleSide) (a : Nat) {b : Nat} (hb : b < 3) :
    (repack s side a)[b]? = some (hostByte s (a + b + if side = .msb then 1 else 0)) := by
  cases side <;> interval_cases b <;> rfl

/-- Byte `b` of container `j` is staged at place `3j + b` (43_format_push.md R199). -/
theorem getElem?_staged24 (s : State) (side : SampleSide) (a : Nat) {k j b : Nat} (hj : j < k) (hb : b < 3) :
    (staged24 s side a k)[3 * j + b]? = some (hostByte s (a + 4 * j + b + if side = .msb then 1 else 0)) := by
  rw [staged24, getElem?_flatMap_range (fun x => by cases side <;> rfl) hj hb, getElem?_repack _ _ _ hb]

/-- Byte `b` of sample `j` widened is staged at place `4j + b` (43_format_push.md R201). -/
theorem getElem?_staged16 (s : State) (a : Nat) {k j b : Nat} (hj : j < k) (hb : b < 4) :
    (staged16 s a k)[4 * j + b]? = (upsample s (a + 2 * j))[b]? :=
  getElem?_flatMap_range (f := fun j => upsample s (a + 2 * j)) (fun _ => rfl) hj hb

/-- The lower half of a widened sample is zero (43_format_push.md R200). -/
theorem getElem?_upsample_lower (s : State) (a : Nat) {b : Nat} (hb : b < 2) :
    (upsample s a)[b]? = some 0#8 := by
  interval_cases b <;> rfl

/-- The upper half of a widened sample is the sample (43_format_push.md R200). -/
theorem getElem?_upsample_upper (s : State) (a : Nat) {b : Nat} (hb : b < 2) :
    (upsample s a)[2 + b]? = some (hostByte s (a + b)) := by
  interval_cases b <;> rfl

/-- Byte `b` of a frame: from the other end of the frame if BS, its bits reversed if BR (43_format_push.md R203). -/
theorem getElem?_dsdFrame (s : State) (a blk : Nat) (br bs : Bool) (c g : Nat) {b : Nat} (hb : b < 4) :
    (dsdFrame s a blk br bs c g)[b]? =
      let source := hostByte s (a + c * blk + 4 * g + if bs then 3 - b else b)
      some (if br then rev8 source else source) := by
  cases br <;> cases bs <;> interval_cases b <;> rfl

/-- Byte `b` of frame `g` of channel `x` is staged at place `4(gC + x) + b` (43_format_push.md R203). -/
theorem getElem?_interleave (s : State) (a blk : Nat) (br bs : Bool) {c k g x b : Nat} (hg : g < k) (hx : x < c)
    (hb : b < 4) : (interleave s a blk c br bs k)[4 * (g * c + x) + b]? = (dsdFrame s a blk br bs x g)[b]? := by
  have hplace : 4 * (g * c + x) + b = 4 * c * g + (4 * x + b) := by ring
  have hround (y : Nat) : ((List.range c).flatMap fun x => dsdFrame s a blk br bs x y).length = 4 * c := by
    rw [flatMap_length_const _ _ 4 fun x => by simp, List.length_range]
  rw [hplace, interleave, getElem?_flatMap_range hround hg (by omega),
    getElem?_flatMap_range (fun y => by simp) hx hb]

/-! ### The ring after the staged bytes -/

section Staged

variable {s : State} {v : List Byte} (m : Nat) (hw : s.wr.toNat < s.cap.toNat)

include hw

/-- `WR` moves by the number of staged bytes (43_format_push.md R190). -/
theorem toNat_wr_pushStaged : (pushStaged v m s).state.wr.toNat = (s.wr.toNat + v.length) % s.cap.toNat :=
  advance_toNat s.cap s.wr _ (Nat.zero_lt_of_lt hw)

variable (hwf : Memory.wf s.silence s.cap.toNat s.ring = true) (hv : v.length ≤ freeBytes s.cap s.wr s.snapP)

include hwf hv

/-- Staged byte `i` goes to the offset `i` ahead of `WR` (43_format_push.md R190). -/
theorem ringByte_pushStaged_ahead {i : Nat} {b : Byte} (hi : v[i]? = some b) :
    ringByte (pushStaged v m s).state ((s.wr.toNat + i) % s.cap.toNat) = b := by
  obtain ⟨hlt, rfl⟩ := List.getElem?_eq_some_iff.1 hi
  exact ringByte_ringPut_ahead (s := { s with scratch := Memory.writeList scratchFill 0 v s.scratch }) hwf hw
    (hv.trans_lt (freeBytes_lt _ _ _ (Nat.zero_lt_of_lt hw))) hlt

/-- The other offsets keep their bytes (43_format_push.md R190). -/
theorem ringByte_pushStaged_elsewhere {o : Nat} (ho : o < s.cap.toNat)
    (hother : ∀ i, i < v.length → o ≠ (s.wr.toNat + i) % s.cap.toNat) :
    ringByte (pushStaged v m s).state o = ringByte s o :=
  ringByte_ringPut_elsewhere (s := { s with scratch := Memory.writeList scratchFill 0 v s.scratch }) hwf hw
    (hv.trans_lt (freeBytes_lt _ _ _ (Nat.zero_lt_of_lt hw))) ho hother

end Staged

/-- The number of consumed input bytes, at most `LEN`, fits a result register (43_format_push.md R190). -/
theorem toNat_ofNat_of_le {n : Nat} {len : Word} (h : n ≤ len.toNat) : (BitVec.ofNat 32 n).toNat = n := by
  rw [BitVec.toNat_ofNat, Nat.mod_eq_of_lt (h.trans_lt len.isLt)]

/-! ### PUSH16TO32 -/

/-- Settles O50: each sample is staged as two zero bytes and its own two, and `RingPut` keeps their order. -/
theorem push16To32PushesWidenedSamples : Obligations.Push16To32PushesWidenedSamples := by
  intro addr len s k hactive hcfg hring hstores hk
  replace hk : clampUnits s (len.toNat / 2) 4 = k := hk.symm
  have hg : genericFault (.push16to32 addr len) s = none :=
    genericFault_eq_none_of_port rfl (by simp [mayIssue, hactive]) hcfg rfl
  refine ⟨fun hok => ?_, fun hbad => exec_of_error hg (if_pos (hk ▸ hostRangeOK_eq_false hbad))⟩
  obtain ⟨hw, -⟩ := hring.cursors_lt hcfg
  obtain ⟨-, hwf, -⟩ := hstores
  obtain ⟨hreq, -, hfree⟩ := hk ▸ clampUnits_le s (len.toNat / 2) 4
  have hlen := length_staged16 s addr.toNat k
  rw [← hlen] at hfree
  have hbody : push16to32Body addr len s = .ok (pushStaged (staged16 s addr.toNat k) (2 * k) s) := by
    rw [push16to32Body, hk]
    exact if_neg (ne_false_of_eq_true ((hostRangeOK_iff ..).2 hok))
  refine ⟨_, exec_of_ok_on_P hactive hg hbody, rfl, toNat_ofNat_of_le (len := len) (by omega), ?_,
    fun j b hj hb => ⟨?_, ?_⟩, fun o ho hother => ?_⟩
  · exact (toNat_wr_pushStaged (2 * k) hw).trans (by rw [hlen])
  · rw [Nat.add_assoc]
    exact ringByte_pushStaged_ahead (2 * k) hw hwf hfree
      ((getElem?_staged16 s _ hj (by omega)).trans (getElem?_upsample_lower s _ hb))
  · rw [Nat.add_assoc _ _ 2, Nat.add_assoc, Nat.add_assoc]
    exact ringByte_pushStaged_ahead (2 * k) hw hwf hfree
      ((getElem?_staged16 s _ hj (by omega)).trans (getElem?_upsample_upper s _ hb))
  · exact ringByte_pushStaged_elsewhere (2 * k) hw hwf hfree ho (by rwa [hlen])

/-! ### PUSHDSD -/

/-- One inaccessible byte of a channel's first frames makes a planar buffer inaccessible (43_format_push.md R204). -/
theorem planarOK_eq_false {s : State} {a blk c k : Nat}
    (h : ∃ x i, x < c ∧ i < 4 * k ∧ hostOK s.config (a + x * blk + i) = false) :
    planarOK s a blk c k = false := by
  obtain ⟨x, i, hx, hi, hbad⟩ := h
  exact eq_false_of_ne_true fun hok => ne_true_of_eq_false hbad ((planarOK_iff ..).1 hok x hx i hi)

/-- Whole frames of every channel are no more than the blocks hold (43_format_push.md R204). -/
theorem frames_le_len {c k len : Nat} (h : k ≤ len / c / 4) : 4 * c * k ≤ len :=
  calc 4 * c * k = c * (4 * k) := by ring
    _ ≤ c * (len / c) := Nat.mul_le_mul_left c (by omega)
    _ ≤ len := Nat.mul_div_le len c

/-- Settles O51: the frames are staged round-robin over the channels, and `RingPut` keeps their order. -/
theorem pushdsdPushesInterleavedFrames : Obligations.PushdsdPushesInterleavedFrames := by
  intro addr len channels br bs s c blk k hactive hcfg hring hstores hc hblk hk
  subst hc hblk
  replace hk : clampUnits s (len.toNat / channels.toNat / 4) (4 * channels.toNat) = k := hk.symm
  generalize hc : channels.toNat = c at hk ⊢
  have hg : genericFault (.pushdsd addr len channels br bs) s = none :=
    genericFault_eq_none_of_port rfl (by simp [mayIssue, hactive]) hcfg rfl
  have hbody : pushdsdBody addr len channels br bs s =
      if c = 0 ∨ len.toNat % c ≠ 0 then .error .dsdGeometry
      else if planarOK s addr.toNat (len.toNat / c) c k = false then .error .hostAccessFault
      else .ok (pushStaged (interleave s addr.toNat (len.toNat / c) c br bs k) (4 * c * k) s) := by
    simp only [pushdsdBody, hc, hk]
  refine ⟨fun hc0 hdiv hok => ?_, fun hc0 hdiv hbad => ?_, fun hgeom => ?_⟩
  · obtain ⟨hw, -⟩ := hring.cursors_lt hcfg
    obtain ⟨-, hwf, -⟩ := hstores
    obtain ⟨hreq, -, hfree⟩ := hk ▸ clampUnits_le s (len.toNat / c / 4) (4 * c)
    have hlen := length_interleave s addr.toNat (len.toNat / c) c br bs k
    rw [← hlen] at hfree
    have haccess := (planarOK_iff s addr.toNat (len.toNat / c) c k).2 fun x hx i hi => hok x i hx hi
    rw [if_neg (by simp [hc0, hdiv]), if_neg (ne_false_of_eq_true haccess)] at hbody
    refine ⟨_, exec_of_ok_on_P hactive hg hbody, rfl, toNat_ofNat_of_le (frames_le_len hreq), ?_,
      fun g x b hgk hx hb => ?_, fun o ho hother => ?_⟩
    · exact (toNat_wr_pushStaged (4 * c * k) hw).trans (by rw [hlen])
    · exact ringByte_pushStaged_ahead (4 * c * k) hw hwf hfree
        ((getElem?_interleave s _ _ br bs hgk hx hb).trans (getElem?_dsdFrame s _ _ br bs x g hb))
    · exact ringByte_pushStaged_elsewhere (4 * c * k) hw hwf hfree ho (by rwa [hlen])
  · rw [if_neg (by simp [hc0, hdiv]), if_pos (planarOK_eq_false hbad)] at hbody
    exact exec_of_error hg hbody
  · rw [if_pos hgeom] at hbody
    exact exec_of_error hg hbody

/-! ### The alignment state after PUSH24's detection -/

/-- When a byte of the containers of a window is not always zero (43_format_push.md R195). -/
theorem byteAlwaysZero_eq_false_iff (s : State) (a w b : Nat) :
    byteAlwaysZero s a w b = false ↔ ∃ j, j < w ∧ hostByte s (a + 4 * j + b) ≠ 0#8 := by
  simp [byteAlwaysZero]

/-- A hint stands for MsbAligned only if it is MsbAligned (43_format_push.md R196, R197). -/
theorem sideOfHint_eq_msb_iff (h : Option SampleSide) : sideOfHint h = .msb ↔ h = some .msb := by
  obtain _ | _ | _ := h <;> simp [sideOfHint]

/-- Every other hint stands for LsbAligned (43_format_push.md R196, R197). -/
theorem sideOfHint_eq_lsb {h : Option SampleSide} (hne : h ≠ some .msb) : sideOfHint h = .lsb := by
  obtain _ | _ | _ := h
  · rfl
  · rfl
  · exact absurd rfl hne

/-- The mode decides the conversion if it is LsbAligned or MsbAligned, else the hint does (43_format_push.md R197). -/
theorem conversionSide_eq_msb_iff (s : State) :
    conversionSide s = .msb ↔ s.mode = .msb ∨ (s.mode ≠ .lsb ∧ s.hint = some .msb) := by
  unfold conversionSide
  cases s.mode <;> simp [sideOfHint_eq_msb_iff]

/-- In a command's conversion mode, byte `b` of container `j` is staged at place `3j + b` (43_format_push.md R197,
R198). -/
theorem getElem?_staged24_conversionSide (s : State) (a : Nat) {k j b : Nat} (hj : j < k) (hb : b < 3) :
    (staged24 s (conversionSide s) a k)[3 * j + b]? = some (hostByte s (a + 4 * j + b +
      if s.mode = .msb ∨ (s.mode ≠ .lsb ∧ s.hint = some .msb) then 1 else 0)) := by
  simp only [getElem?_staged24 s _ a hj hb, conversionSide_eq_msb_iff]

/-- Detection runs on an unconfirmed mode and at least one container (43_format_push.md R194). -/
theorem detectIfNeeded_eq_detect {s : State} {k : Nat} (hconf : s.conf = false) (hk : 0 < k) (a : Nat) :
    detectIfNeeded a k s = detect a k s := if_pos ⟨hconf, hk⟩

/-- Detection does not run on a confirmed mode, nor without a container (43_format_push.md R194). -/
theorem detectIfNeeded_eq_self {s : State} {k : Nat} (h : s.conf = true ∨ k = 0) (a : Nat) :
    detectIfNeeded a k s = s :=
  if_neg fun ⟨hconf, hk⟩ => by simp [hconf, Nat.ne_of_gt hk] at h

/-- The side that a window shows: a byte 0 that is not always zero is a sample byte, so LsbAligned; else a byte 3 that
is not always zero is one, so MsbAligned; else nothing is shown yet (43_format_push.md R195). -/
theorem detect_eq (a k : Nat) (s : State) :
    detect a k s =
      if byteAlwaysZero s a (min detectWindow k) 0 = true then
        if byteAlwaysZero s a (min detectWindow k) 3 = true then deferUnits k s
        else { s with mode := .msb, conf := true }
      else { s with mode := .lsb, conf := true } := by
  unfold detect
  dsimp only
  cases byteAlwaysZero s a (min detectWindow k) 0 <;> cases byteAlwaysZero s a (min detectWindow k) 3 <;> rfl

section Deferral

variable {s : State} {k : Nat}

/-- Up to the threshold the decision stays deferred (43_format_push.md R196). -/
theorem deferUnits_of_le (h : s.defcnt.toNat + k ≤ s.config.deferThreshold.val) :
    deferUnits k s = { s with mode := .deferred, defcnt := BitVec.ofNat 32 (s.defcnt.toNat + k) } :=
  if_neg (Nat.not_lt.2 h)

/-- Beyond the threshold the hint's side is confirmed (43_format_push.md R196). -/
theorem deferUnits_of_lt (h : s.config.deferThreshold.val < s.defcnt.toNat + k) :
    deferUnits k s = { s with
      mode := modeOfSide (sideOfHint s.hint), conf := true, defcnt := BitVec.ofNat 32 (s.defcnt.toNat + k) } :=
  if_pos h

/-- The deferred count adds up without wrapping while the mode is unconfirmed (10_state.md R33). -/
theorem toNat_defcnt_deferUnits (h : AlignInv s) (hconf : s.conf = false) (hk : k < 2 ^ 30) :
    (deferUnits k s).defcnt.toNat = s.defcnt.toNat + k := by
  obtain ⟨-, -, hcount, -⟩ := h
  have hle := hcount hconf
  have hthr : deferThreshold s.config < 2 ^ 31 := s.config.deferThreshold.isLt
  have hsum : (deferUnits k s).defcnt = BitVec.ofNat 32 (s.defcnt.toNat + k) := by
    obtain hover | hunder := Nat.lt_or_ge s.config.deferThreshold.val (s.defcnt.toNat + k)
    · rw [deferUnits_of_lt hover]
    · rw [deferUnits_of_le hunder]
  rw [hsum, BitVec.toNat_ofNat, Nat.mod_eq_of_lt (by omega)]

end Deferral

/-- Every outcome of detection writes the mode, its confirmation and the deferred count only (43_format_push.md R195,
R196). -/
theorem exists_detectIfNeeded_eq (a k : Nat) (s : State) :
    ∃ m c d, detectIfNeeded a k s = { s with mode := m, conf := c, defcnt := d } := by
  rw [detectIfNeeded, detect_eq, deferUnits]
  split_ifs <;> exact ⟨_, _, _, rfl⟩

/-! ### PUSH24 -/

/-- PUSH24 of an accessible buffer: detection, then the containers repacked in the mode it leaves (43_format_push.md
R199). -/
theorem exec_push24_of_accessible {addr : Addr} {len : Word} {s u : State} {k : Nat} (hactive : s.active = .P)
    (hcfg : s.cfg = true) (hk : clampUnits s (len.toNat / 4) 3 = k)
    (hok : ∀ i, i < 4 * k → hostOK s.config (addr.toNat + i) = true) (hu : detectIfNeeded addr.toNat k s = u) :
    exec (.push24 addr len) s = .next { (pushStaged (staged24 u (conversionSide u) addr.toNat k) (4 * k) u).state with
      rvalP := BitVec.ofNat 32 (4 * k), rokP := true, busyP := false } := by
  have hg : genericFault (.push24 addr len) s = none :=
    genericFault_eq_none_of_port rfl (by simp [mayIssue, hactive]) hcfg rfl
  have hbody : push24Body addr len s = .ok (pushStaged (staged24 u (conversionSide u) addr.toNat k) (4 * k) u) := by
    rw [push24Body, hk, hu]
    exact if_neg (ne_false_of_eq_true ((hostRangeOK_iff ..).2 hok))
  exact exec_of_ok_on_P hactive hg hbody

/-- Settles O49: detection leaves ring, cursors and host memory alone, and the containers are staged in order. -/
theorem push24PushesRepackedSamples : Obligations.Push24PushesRepackedSamples := by
  intro addr len s k hactive hcfg hring hstores hk
  replace hk : clampUnits s (len.toNat / 4) 3 = k := hk.symm
  refine ⟨fun hok => ?_, fun hbad => ?_⟩
  · obtain ⟨hw, -⟩ := hring.cursors_lt hcfg
    obtain ⟨-, hwf, -⟩ := hstores
    obtain ⟨hreq, -, hfree⟩ := hk ▸ clampUnits_le s (len.toNat / 4) 3
    obtain ⟨m, c, d, hu⟩ := exists_detectIfNeeded_eq addr.toNat k s
    have hexec := exec_push24_of_accessible hactive hcfg hk hok hu
    refine ⟨_, _, hexec, rfl, toNat_ofNat_of_le (len := len) (by omega), ?_, rfl, fun j b hj hb => ?_,
      fun o ho hother => ?_⟩
    · exact (toNat_wr_pushStaged (4 * k) (by exact hw)).trans (by rw [length_staged24])
    · rw [Nat.add_assoc]
      exact ringByte_pushStaged_ahead (4 * k) (by exact hw) hwf (by rwa [length_staged24])
        (getElem?_staged24_conversionSide _ _ hj hb)
    · exact ringByte_pushStaged_elsewhere (4 * k) (by exact hw) hwf (by rwa [length_staged24]) ho
        (by rwa [length_staged24])
  · have hg : genericFault (.push24 addr len) s = none :=
      genericFault_eq_none_of_port rfl (by simp [mayIssue, hactive]) hcfg rfl
    exact exec_of_error hg (if_pos (hk ▸ hostRangeOK_eq_false hbad))

/-- Settles O48: bytes 0 and 3 of the window's containers are each always zero or not, which are the four cases of
detection. -/
theorem push24DetectsAlignment : Obligations.Push24DetectsAlignment := by
  intro addr len s k w hactive hcfg _ halign hk hw hok
  replace hk : clampUnits s (len.toNat / 4) 3 = k := hk.symm
  obtain ⟨hreq, -, -⟩ := hk ▸ clampUnits_le s (len.toNat / 4) 3
  have hlen := len.isLt
  have hexec := exec_push24_of_accessible hactive hcfg hk hok rfl
  refine ⟨_, hexec, detectIfNeeded_hint .., fun hidle => ?_, fun hconf hpos => ?_⟩
  · rw [detectIfNeeded_eq_self hidle]
    exact ⟨rfl, rfl, rfl⟩
  · subst hw
    have hzero (b : Nat) := (byteAlwaysZero_iff s addr.toNat (min detectWindow k) b).2
    have hnonzero (b : Nat) := (byteAlwaysZero_eq_false_iff s addr.toNat (min detectWindow k) b).2
    rw [detectIfNeeded_eq_detect hconf hpos, detect_eq]
    refine ⟨fun h0 h3 => ?_, fun h0 _ => ?_, fun h0 h3 => ?_, fun h0 _ => ?_⟩
    · rw [if_pos (hzero 0 h0), if_pos (hzero 3 h3)]
      refine ⟨toNat_defcnt_deferUnits halign hconf (by omega), fun hle => ?_, fun hlt => ?_⟩
      · rw [deferUnits_of_le hle]
        exact ⟨rfl, hconf⟩
      · rw [deferUnits_of_lt hlt]
        refine ⟨rfl, fun hmsb => ?_, fun hmsb => ?_⟩
        · exact congrArg modeOfSide ((sideOfHint_eq_msb_iff _).2 hmsb)
        · exact congrArg modeOfSide (sideOfHint_eq_lsb hmsb)
    · rw [if_neg (ne_true_of_eq_false (hnonzero 0 h0))]
      exact ⟨rfl, rfl, rfl⟩
    · rw [if_pos (hzero 0 h0), if_neg (ne_true_of_eq_false (hnonzero 3 h3))]
      exact ⟨rfl, rfl, rfl⟩
    · rw [if_neg (ne_true_of_eq_false (hnonzero 0 h0))]
      exact ⟨rfl, rfl, rfl⟩

end Sys2Proof.Machine

/-! The statements of 60_exceptions.md: a fault leaves its record and nothing else (R231, R232), the first failing check
is the one reported (R234), and every command answers (R235). -/

namespace Sys2Proof.Machine

/-! ### What a faulting command leaves -/

/-- A command that takes a fault in an unfaulted block leaves the block with the record of a cause, which the generic
checks found or, when they all pass, the command's own check (60_exceptions.md R231, R232, R234). -/
theorem exec_faulted {i : Instr} {s t : State} (hs : s.fault = false) (h : exec i s = .next t) (ht : t.fault = true) :
    ∃ c, t = raiseFault c (encode i) s ∧
      (genericFault i s = some c ∨ genericFault i s = none ∧ commandBody i s = .error c) := by
  rw [exec_eq_runCommand] at h
  obtain ⟨c, hg, rfl⟩ | ⟨c, hg, hb, rfl⟩ | ⟨r, -, hb, rfl⟩ := runCommand_cases _ _ _ _ h
  · exact ⟨c, rfl, .inl hg⟩
  · exact ⟨c, rfl, .inr ⟨hg, hb⟩⟩
  · rw [finish_fault, (commandBody_effect hb).surroundings.fault, hs] at ht
    cases ht

/-- Settles O15: the record is one of `raiseFault`, and every cause has a code from 0x01 to 0x0A. -/
theorem faultsArePrecise : Obligations.FaultsArePrecise := by
  intro i s t hs h ht
  obtain ⟨c, rfl, -⟩ := exec_faulted hs h ht
  obtain ⟨hlo, hhi⟩ := faultCode_bounds c
  exact ⟨faultCode c, hlo, hhi, raiseFault_eq_withRecord ..⟩

/-! ### Which cause is reported -/

theorem genericFault_eq_illegalCommand {i : Instr} {s : State} (hwf : i.wellFormed = false) :
    genericFault i s = some .illegalCommand :=
  if_pos hwf

/-- The configuration check spares RESIZE and SETHINT alone, so it passes in a configured block or for one of them
(10_state.md R22). -/
theorem configured_of_needsConfig {i : Instr} {s : State} (hcfg : s.cfg = true ∨ (opcodeOf i).toNat ∈ [0x01, 0x04])
    (hneeds : needsConfig i = true) : s.cfg = true :=
  hcfg.resolve_right fun hmem => by
    obtain ⟨h1, h4⟩ := (needsConfig_iff i).1 hneeds
    simp [h1, h4] at hmem

/-- The reconfigurations have the four lowest opcodes (30_encoding.md R92). -/
theorem needsQuiescence_iff_le (i : Instr) : needsQuiescence i = true ↔ (opcodeOf i).toNat ≤ 0x04 := by
  cases i <;> simp [needsQuiescence, opcodeOf]

/-- The generic check that fails is the one reported (60_exceptions.md R234 items 1 to 4). -/
theorem fcode_of_genericFault {i : Instr} {s t : State} {c : FaultCode} (h : exec i s = .next t)
    (hg : genericFault i s = some c) : t.fcode = faultCode c := by
  rw [exec_eq_runCommand, runCommand_generic i _ s c hg] at h
  cases h
  rfl

/-- A command's own checks raise none of the causes of the generic checks (60_exceptions.md R234 items 5 and 6). -/
theorem commandBody_error_code {i : Instr} {s : State} {c : FaultCode} (h : commandBody i s = .error c) :
    0x05 ≤ (faultCode c).toNat := by
  cases i with
  | avail | free | clear | fillsil | sethint => cases h
  | wregion | rregion =>
    simp only [commandBody, wregionBody, rregionBody] at h
    split at h <;> cases h
  | resize | pushdsd =>
    simp only [commandBody, resizeBody, pushdsdBody] at h
    split_ifs at h <;> cases h <;> decide
  | push | push24 | push16to32 | pop =>
    simp only [commandBody, pushBody, push24Body, push16to32Body, popBody] at h
    split at h <;> cases h
    decide
  | winwr | commitw | winrd | advancer =>
    simp only [commandBody, winwrBody, commitwBody, winrdBody, advancerBody] at h
    split at h <;> cases h
    decide

/-- A command that passes the generic checks and faults reports a cause of its own check (60_exceptions.md R234 items 5
and 6). -/
theorem fcode_of_own_check {i : Instr} {s t : State} (hs : s.fault = false) (h : exec i s = .next t)
    (ht : t.fault = true) (hg : genericFault i s = none) : 0x05 ≤ t.fcode.toNat ∧ t.fcode.toNat ≤ 0x0A := by
  obtain ⟨c, rfl, hgeneric | ⟨-, hb⟩⟩ := exec_faulted hs h ht
  · simp [hg] at hgeneric
  · exact ⟨commandBody_error_code hb, (faultCode_bounds c).2⟩

/-- Settles O16: the premises of each clause say which generic check is the first to fail, or that none does. -/
theorem firstFailingCheckIsReported : Obligations.FirstFailingCheckIsReported := by
  intro i s t hs h ht
  refine ⟨fun hwf => ?_, fun hwf hport => ?_, fun hwf hport hcfg hop => ?_, fun hwf hport hcfg hop hbusy => ?_,
    fun hwf hport hcfg hquiet => ?_⟩
  · exact fcode_of_genericFault h (genericFault_eq_illegalCommand hwf)
  · have hissue := eq_false_of_ne_true fun hissue => hport ((mayIssue_iff _ _).1 hissue)
    exact fcode_of_genericFault h (genericFault_eq_portViolation hwf hissue)
  · have hneeds := (needsConfig_iff i).2 (by simpa using hop)
    exact fcode_of_genericFault h (genericFault_eq_notConfigured hwf ((mayIssue_iff _ _).2 hport) hneeds hcfg)
  · exact fcode_of_genericFault h (genericFault_eq_quiescenceViolation hwf ((mayIssue_iff _ _).2 hport)
      (configured_of_needsConfig hcfg) ((needsQuiescence_iff_le i).2 hop) hbusy)
  · have hg := (genericFault_eq_none i s).2 ⟨hwf, (mayIssue_iff _ _).2 hport, configured_of_needsConfig hcfg,
      fun hneeds => hquiet ((needsQuiescence_iff_le i).1 hneeds)⟩
    exact fcode_of_own_check hs h ht hg

/-! ### Every command answers -/

/-- Settles O17: the shared frame of all commands turns every failed check into the fault record and every completed
body into its result. -/
theorem everyCommandAnswers : Obligations.EveryCommandAnswers := by
  intro i s
  rw [exec_eq_runCommand]
  exact runCommand_next ..

end Sys2Proof.Machine

/-! The statement of 70_reset_and_hazards.md: what a reset sets and what it leaves alone (R270, with the values of
10_state.md R48). -/

namespace Sys2Proof.Machine

/-- The platform's reset takes effect in every state, a halted one and one with commands in flight included
(70_reset_and_hazards.md R270). -/
theorem step_of_reset {s : State} {ts : List Turn} (hs : s.turns = .reset :: ts) :
    step s = .next (resetBlock { s with turns := ts }) := by
  simp only [step, hs, takeTurn]

/-- Settles O1: a reset turn always answers, with the block of R48 beside the old memory, parameters and agents. -/
theorem resetSetsStatedValues : Obligations.ResetSetsStatedValues := by
  intro s ts hs
  refine ⟨resetBlock { s with turns := ts }, step_of_reset hs, ?_⟩
  and_intros <;> rfl

end Sys2Proof.Machine
